-- ==== Sys2Proof/Word.lean ====
section
/-! DEFINITION. The word types of the block: a byte, a bus address, a command word, a response word. -/

namespace Sys2Proof

/-- A byte: 8 bits, unsigned (R9). Sensor register cells and register addresses are bytes (R8). -/
abbrev Byte := BitVec 8

/-- A bus address: the 7-bit device selector (R8, R21). -/
abbrev BusAddr := BitVec 7

/-- The command word the host presents (R100). -/
abbrev CmdWord := BitVec 24

/-- The response word the block hands back (R105). -/
abbrev RespWord := BitVec 18

/-- The value field of a response word, and the 16-bit pattern of one sample (R105, R67). -/
abbrev Pattern := BitVec 16

end Sys2Proof
end

