-- ==== Sys2Proof/Config.lean ====
section
/-! DEFINITION. What an implementation fixes (R8) and what the spec leaves open: the two reset arguments, the
failure signal, the policy for a late failure of initialize, and the free value that answers for the sensor. -/

namespace Sys2Proof

/-- The signals the transport uses beside one: OPEN in the spec (R8, D22). DESIGN CHOICE (log 5): a type with no body,
so that nothing can be proved of it. It comes with an order only because State is plain data that can be compared;
every type carries one, and nothing uses it. -/
opaque Config.signals : LinOrd.{0}

/-- The transport's failure signal, `FailSig` of R8: an opaque, non-empty type. The block passes a signal on and never
inspects it (R12, D22). -/
inductive FailSig
  /-- one signal, so that the type is not empty -/
  | one
  /-- any other; which one is not shown when it is printed -/
  | other {signal : Config.signals}
deriving DecidableEq, Repr, Inhabited

/-- `INIT_LATE_FAIL` of R8 and R215: what initialize answers when a transport call fails after the identity read. -/
inductive InitLateFail
  /-- respond `fail(s)`: the default of the spec -/
  | propagate
  /-- respond `ok(false)` -/
  | reportFalse
deriving DecidableEq, Repr, Inhabited

/-- What the transport offers when it does answer a call (R62, R63, R80): `ok`, with the bytes a read would take
(a one-byte read takes `b0`, a write takes neither), or a failure with its signal. -/
inductive Offer
  | ok (b0 b1 : Byte)
  | fail (sig : FailSig)
deriving DecidableEq, Repr, Inhabited

/-- `BUS_ADDR_RESET` when the host supplies no other (R8, R41). -/
def Config.busAddrReset : BusAddr := 0x53#7

/-- `RANGE_RESET`: OPEN in the spec (R8, R42, D11), "A model must not assume 0". DESIGN CHOICE (log 1): a constant
with no body, so that nothing can be proved of its value. -/
opaque Config.rangeReset : Byte

/-- The free value that stands for the unconstrained transport and sensor (R80, R81): what it does at the `n`-th
bus transaction, where `none` is a call that never answers. DESIGN CHOICE (log 4). -/
opaque Config.freeAnswer : Nat → Option Offer

end Sys2Proof
end

