-- ==== Sys2Proof/Syntax.lean ====
section
/-! DEFINITION. The twelve operations (R2, R102) and the enumerations whose numbers the register decoder uses (R118). -/

namespace Sys2Proof

/-- The closed operation set of R102. Every operand is a raw byte, because the block accepts bytes outside the
enumerations (R70, R115, R118). The operation the spec calls `initialize` is spelled `initialise` here, since the
spec's spelling is a reserved word of Lean. -/
inductive Instr
  | initialise
  | setRange (range : Byte)
  | getRange
  | setDataRate (rate : Byte)
  | getDataRate
  | readRegister (addr : Byte)
  | writeRegister (addr value : Byte)
  | readRegisterWord (addr : Byte)
  | getX
  | getY
  | getZ
  | getDeviceID
deriving DecidableEq, Repr, Inhabited

/-- The twelve register names the source prints (R27). -/
inductive RegName
  | DEVID | THRESH_TAP | BW_RATE | POWER_CTL | INT_SOURCE | DATA_FORMAT
  | DATAX0 | DATAX1 | DATAY0 | DATAY1 | DATAZ0 | DATAZ1
deriving DecidableEq, Repr

/-- The eighteen register names of R28. PRESUMED (log 16): from general knowledge, untrusted labels; no operation
of the block uses one. -/
inductive RegLabel
  | OFSX | OFSY | OFSZ | DUR | LATENT | WINDOW
  | THRESH_ACT | THRESH_INACT | TIME_INACT | ACT_INACT_CTL | THRESH_FF | TIME_FF
  | TAP_AXES | ACT_TAP_STATUS | INT_ENABLE | INT_MAP | FIFO_CTL | FIFO_STATUS
deriving DecidableEq, Repr

/-- The three axes (R29). -/
inductive Axis
  | X | Y | Z
deriving DecidableEq, Repr

/-- The Range Selector: four variants, in the source's order (R37). -/
inductive RangeSel
  | g2 | g4 | g8 | g16
deriving DecidableEq, Repr

/-- The Data Rate Selector: sixteen variants, named by their code alone (R38). -/
abbrev RateSel := Fin 16

/-- The type of an operation's `ok` result (R12). -/
inductive ResultKind
  | bool | unit | code2 | code4 | byte | int16
deriving DecidableEq, Repr

/-- The operation's name in the opcode table and in the program notation of R116. -/
def Instr.mnemonic : Instr → String
  | .initialise => "initialize"
  | .setRange _ => "setRange"
  | .getRange => "getRange"
  | .setDataRate _ => "setDataRate"
  | .getDataRate => "getDataRate"
  | .readRegister _ => "readRegister"
  | .writeRegister _ _ => "writeRegister"
  | .readRegisterWord _ => "readRegisterWord"
  | .getX => "getX"
  | .getY => "getY"
  | .getZ => "getZ"
  | .getDeviceID => "getDeviceID"

/-- The result type of each operation (R12, R102). -/
def Instr.resultKind : Instr → ResultKind
  | .initialise => .bool
  | .setRange _ => .unit
  | .getRange => .code2
  | .setDataRate _ => .unit
  | .getDataRate => .code4
  | .readRegister _ => .byte
  | .writeRegister _ _ => .unit
  | .readRegisterWord _ => .int16
  | .getX => .int16
  | .getY => .int16
  | .getZ => .int16
  | .getDeviceID => .byte

end Sys2Proof
end

