-- ==== Sys2Proof/WellFormed.lean ====
section
/-! DEFINITION. When an operation is well formed, and, apart from that, when its operands are legal selector codes.
The block checks neither operands nor addresses (R70, R216), so every `Instr` is well formed: its operands are bytes
by type, and a byte is all the command word can carry (R100, R101). Legality is a premise a claim may take (U3). -/

namespace Sys2Proof

/-- Every operand fits the field of the command word that carries it (R100, R101): true of every operation, because
an operand is a byte by type and every byte is admitted (R70). An operand that does not fit cannot be written down. -/
def Instr.wellFormed : Instr → Bool
  | .initialise => true
  | .setRange _ => true
  | .getRange => true
  | .setDataRate _ => true
  | .getDataRate => true
  | .readRegister _ => true
  | .writeRegister _ _ => true
  | .readRegisterWord _ => true
  | .getX => true
  | .getY => true
  | .getZ => true
  | .getDeviceID => true

/-- The operands are codes the source enumerates: a range code is 0 to 3 (R37), a rate code is 0 to 15 (R38). The
block does not check this (R115). Raw register operands have no illegal value (R30). -/
def Instr.legalCodes : Instr → Bool
  | .initialise => true
  | .setRange range => range.toNat < 4
  | .getRange => true
  | .setDataRate rate => rate.toNat < 16
  | .getDataRate => true
  | .readRegister _ => true
  | .writeRegister _ _ => true
  | .readRegisterWord _ => true
  | .getX => true
  | .getY => true
  | .getZ => true
  | .getDeviceID => true

end Sys2Proof
end

