-- ==== Sys2Proof/Decode.lean ====
section
/-! DEFINITION. The command word (R100 to R104): the decoder, total on all 24-bit words, the opcode table it must
agree with, and the encoder of R116. -/

namespace Sys2Proof

/-- `op`, bits 23:16 of the command word (R100). -/
def cmdOp (cw : CmdWord) : Byte := cw.extractLsb' 16 8

/-- `a`, bits 15:8 of the command word (R100). -/
def cmdA (cw : CmdWord) : Byte := cw.extractLsb' 8 8

/-- `b`, bits 7:0 of the command word (R100). -/
def cmdB (cw : CmdWord) : Byte := cw.extractLsb' 0 8

/-- Format N of R101: both operand fields must be 0x00. -/
def formatN (i : Instr) (a b : Byte) : Option Instr :=
  if a = 0x00#8 ∧ b = 0x00#8 then some i else none

/-- Format A of R101: `a` is the operand, `b` must be 0x00. -/
def formatA (f : Byte → Instr) (a b : Byte) : Option Instr :=
  if b = 0x00#8 then some (f a) else none

/-- Format AB of R101: both fields are operands. -/
def formatAB (f : Byte → Byte → Instr) (a b : Byte) : Option Instr :=
  some (f a b)

/-- The decoder of R104 over the three fields. A reserved word (R103) is `none`. -/
def decodeFields (op a b : Byte) : Option Instr :=
  match op.toNat with
  | 0x01 => formatN .initialise a b
  | 0x02 => formatA .setRange a b
  | 0x03 => formatN .getRange a b
  | 0x04 => formatA .setDataRate a b
  | 0x05 => formatN .getDataRate a b
  | 0x06 => formatA .readRegister a b
  | 0x07 => formatAB .writeRegister a b
  | 0x08 => formatA .readRegisterWord a b
  | 0x09 => formatN .getX a b
  | 0x0A => formatN .getY a b
  | 0x0B => formatN .getZ a b
  | 0x0C => formatN .getDeviceID a b
  | _ => none

/-- The decoder (R104): the operation a command word spells, or `none` for a reserved word (R103). -/
def decode (cw : CmdWord) : Option Instr :=
  decodeFields (cmdOp cw) (cmdA cw) (cmdB cw)

/-- A command word laid out from its three fields (R100). -/
def packFields (op a b : Byte) : CmdWord := op ++ a ++ b

/-- The encoder of R116: `(op << 16) | (a << 8) | b` with absent operands zero. -/
def encode : Instr → CmdWord
  | .initialise => packFields 0x01 0x00 0x00
  | .setRange range => packFields 0x02 range 0x00
  | .getRange => packFields 0x03 0x00 0x00
  | .setDataRate rate => packFields 0x04 rate 0x00
  | .getDataRate => packFields 0x05 0x00 0x00
  | .readRegister addr => packFields 0x06 addr 0x00
  | .writeRegister addr value => packFields 0x07 addr value
  | .readRegisterWord addr => packFields 0x08 addr 0x00
  | .getX => packFields 0x09 0x00 0x00
  | .getY => packFields 0x0A 0x00 0x00
  | .getZ => packFields 0x0B 0x00 0x00
  | .getDeviceID => packFields 0x0C 0x00 0x00

/-- One row of the opcode table of R102: its `match` and `mask`, and the operation for the operand bytes. -/
structure OpcodeRow where
  pattern : CmdWord
  mask : CmdWord
  instr : Byte → Byte → Instr

/-- A word spells the operation of a row exactly when `cw & mask = match` (R102). -/
def OpcodeRow.spells (row : OpcodeRow) (cw : CmdWord) : Prop := cw &&& row.mask = row.pattern

/-- The opcode table, row by row as R102 prints it. The decoder above is written from R100 and R101; that the two
agree on every word is a statement, not a definition. -/
def opcodeTable : List OpcodeRow :=
  [ ⟨0x010000, 0xFFFFFF, fun _ _ => .initialise⟩,
    ⟨0x020000, 0xFF00FF, fun a _ => .setRange a⟩,
    ⟨0x030000, 0xFFFFFF, fun _ _ => .getRange⟩,
    ⟨0x040000, 0xFF00FF, fun a _ => .setDataRate a⟩,
    ⟨0x050000, 0xFFFFFF, fun _ _ => .getDataRate⟩,
    ⟨0x060000, 0xFF00FF, fun a _ => .readRegister a⟩,
    ⟨0x070000, 0xFF0000, fun a b => .writeRegister a b⟩,
    ⟨0x080000, 0xFF00FF, fun a _ => .readRegisterWord a⟩,
    ⟨0x090000, 0xFFFFFF, fun _ _ => .getX⟩,
    ⟨0x0A0000, 0xFFFFFF, fun _ _ => .getY⟩,
    ⟨0x0B0000, 0xFFFFFF, fun _ _ => .getZ⟩,
    ⟨0x0C0000, 0xFFFFFF, fun _ _ => .getDeviceID⟩ ]

/-- The command word whose low `nbits` bits are those of `w`, every other bit zero. -/
def tableWord (nbits w : Nat) : CmdWord := BitVec.ofNat 24 (w % 2 ^ nbits)

/-- What the decoder reads from an opcode-table word. A command is one 24-bit word on the command port (R77, R100),
so there is no byte order to lay out. -/
def decodeTableWord (nbits w : Nat) : Option Instr := decode (tableWord nbits w)

end Sys2Proof
end

