-- ==== Sys2Proof/Machine/State.lean ====
section
/-! DEFINITION. The state: the block's own (R20 to R24), the environment's as data (R7, R39, R80, R82), and the
observable events so far (R6). Plain data throughout. -/

namespace Sys2Proof.Machine

/-! ## The bus -/

/-- The payload of a write transaction: 1 or 2 bytes, the block never issues another length (R62). The length alone
tells a select frame from a write frame (R106). -/
inductive Payload
  /-- the select frame `{addr}` -/
  | one (addr : Byte)
  /-- the write frame `{addr, value}`, `addr` sent first -/
  | two (addr value : Byte)
deriving DecidableEq, Repr

/-- How many bytes a read transaction asks for: 1 or 2 (R63). -/
inductive ReadLen
  | one | two
deriving DecidableEq, Repr

/-- One bus transaction, with the bus address byte it carries (R61 to R63, R107). -/
inductive BusCall
  | write (bus : Byte) (payload : Payload)
  | read (bus : Byte) (len : ReadLen)
deriving DecidableEq, Repr

/-- The transport's answer to a transaction (R62, R63): `ok` with exactly the bytes asked for, first received first,
or the failure signal. -/
inductive Answer
  | ok (bytes : List Byte)
  | fail (sig : FailSig)
deriving DecidableEq, Repr

/-! ## Responses -/

/-- The value of an `ok` response (R12). -/
inductive Value
  | bool (v : Bool)
  | unit
  | code2 (v : BitVec 2)
  | code4 (v : BitVec 4)
  | byte (v : Byte)
  /-- a signed integer, -32768 to 32767 (R10, R67) -/
  | int16 (v : Int)
deriving DecidableEq, Repr

/-- A response (R12, R210). `ok(false)` of initialize is `.ok (.bool false)`. -/
inductive Response
  | ok (v : Value)
  | fail (sig : FailSig)
  | illegal
deriving DecidableEq, Repr

/-! ## The environment as data -/

/-- What the host does next (R7): present a command word, or reset the block with the two arguments of R240. -/
inductive HostEvent
  | command (cw : CmdWord)
  | reset (addr : BusAddr) (range : Byte)
deriving DecidableEq, Repr

/-- An act of another master, of the sensor's own sampling or of a test harness on the device (R7 (4), R73, R82). -/
inductive OtherAct
  /-- a register changes without the block acting -/
  | poke (addr value : Byte)
  /-- the selected-register pointer moves (another master's select frame) -/
  | point (addr : Byte)
deriving DecidableEq, Repr

/-- What happens at one transaction of the block. -/
inductive Verdict
  /-- whatever stands behind the port answers: the reference device if one is attached, else the free value -/
  | behind
  /-- the transport answers so, and the device does not see the transaction (R80, R82) -/
  | answer (o : Offer)
  /-- the call never returns (R81, R228). DESIGN CHOICE (log 23): the device does not see the transaction; that the
  sensor took it all the same is shown by an act of the same turn -/
  | never
  /-- the host resets the block before the transaction is issued (R241) -/
  | resetBefore (addr : BusAddr) (range : Byte)
  /-- the host resets the block while it waits for the answer (R241); for the device see `never` (log 23) -/
  | resetDuring (addr : BusAddr) (range : Byte)
  /-- the transaction is answered, so or (`none`) by whatever stands behind the port, and the host resets the block
  before it goes on: before its next transaction, or before its response (R74, R241) -/
  | resetAfter (offer : Option Offer) (addr : BusAddr) (range : Byte)
deriving DecidableEq, Repr

/-- The environment's turn at one transaction: what others do to the device just before it, and its verdict. -/
structure Turn where
  others : List OtherAct
  verdict : Verdict
deriving DecidableEq, Repr

/-- Register contents as (address, byte) pairs, in the canonical form of `Memory.wf`. -/
abbrev Memory := List Host.Cell

/-- The reference device of R82, a test fixture and not the sensor: `dev`, `ptr`, `DEV_ADDR`, and the signal `s0`
with which a transaction fails that nobody answers. -/
structure RefDevice where
  devAddr : BusAddr
  ptr : Byte
  cells : Memory
  silence : FailSig
deriving DecidableEq, Repr

/-! ## The block -/

/-- The sequencer while an operation runs (R24): the operation, how many of its transactions have been answered
`ok`, and the byte just read. -/
structure Seq where
  instr : Instr
  pos : Nat
  held : Byte
deriving DecidableEq, Repr

/-- The observable events (R6, D1). -/
inductive Event
  | reset (addr : BusAddr) (range : Byte)
  | command (cw : CmdWord)
  /-- a transaction and its answer; `none` where it has none: the call did not return, or a reset came first -/
  | bus (call : BusCall) (answer : Option Answer)
  | response (r : Response)
deriving DecidableEq, Repr

/-- The state. `busAddr`, `cachedRange` and `seq` are the block's (R20, R24); `lateFail` is a strap no step writes
(R215); `device` and `script` are the environment; `inbox`, `calls` and `trace` are the model's record of what the
host will do, how many transactions were issued, and what was observed. -/
structure State where
  busAddr : BusAddr
  cachedRange : Byte
  seq : Option Seq
  lateFail : InitLateFail
  device : Option RefDevice
  script : List Turn
  inbox : List HostEvent
  calls : Nat
  trace : List Event
deriving DecidableEq, Repr

/-- Reasons to stop with a fault: none. R231: *fault* has no instance in the block. -/
inductive Fault
deriving DecidableEq, Repr

/-- Reasons to refuse. -/
inductive Refusal
  /-- Raised by an arm of `exec` with no meaning yet (safe: such a run stops). Every arm has its meaning, so nothing
  raises it. -/
  | notModelled (mnemonic : String)
deriving DecidableEq, Repr

/-- The machine right after a reset with the default bus address and the open `RANGE_RESET` (R41 to R43, R240): idle,
sequencer empty, no transaction issued, no device known. The strap has the spec's default (R8, R215). -/
def State.reset : State :=
  { busAddr := Config.busAddrReset
    cachedRange := Config.rangeReset
    seq := none
    lateFail := .propagate
    device := none
    script := []
    inbox := []
    calls := 0
    trace := [.reset Config.busAddrReset Config.rangeReset] }

end Sys2Proof.Machine
end

