-- ==== Sys2Proof/Machine/Flags.lean ====
section
/-! DEFINITION. The block has no condition codes and no status register (R25). What it has is the status field of the
response word (R105, R210): this file computes the response word. -/

namespace Sys2Proof.Machine

/-- The type of a value (R12). -/
def Value.kind : Value → ResultKind
  | .bool _ => .bool
  | .unit => .unit
  | .code2 _ => .code2
  | .code4 _ => .code4
  | .byte _ => .byte
  | .int16 _ => .int16

/-- The `value` field for each result type (R105). -/
def Value.field : Value → Pattern
  | .bool v => if v then 0x0001#16 else 0x0000#16
  | .unit => 0x0000#16
  | .code2 v => v.setWidth 16
  | .code4 v => v.setWidth 16
  | .byte v => v.setWidth 16
  | .int16 v => BitVec.ofInt 16 v

/-- The `status` code of an outcome (R105, R210). -/
def Response.status : Response → BitVec 2
  | .ok _ => 0#2
  | .fail _ => 1#2
  | .illegal => 2#2

/-- The `value` field: the result when the status is `ok`, zero otherwise (R105). -/
def Response.field : Response → Pattern
  | .ok v => v.field
  | .fail _ => 0x0000#16
  | .illegal => 0x0000#16

/-- The 18-bit response word: status in bits 17:16, value in bits 15:0 (R105). -/
def Response.word (r : Response) : RespWord := r.status ++ r.field

/-- The side channel: the transport's failure signal, unchanged, with status `fail` (R105). -/
def Response.signal : Response → Option FailSig
  | .ok _ => none
  | .fail sig => some sig
  | .illegal => none

end Sys2Proof.Machine
end

