-- ==== Sys2Proof/Machine/Memory.lean ====
section
/-! DEFINITION. The sensor register space of the reference device (R60, R82): 256 one-byte cells, held as a
canonical list, and the acts on it. -/

namespace Sys2Proof.Machine

/-- What a cell that is not listed reads as: 0x00 (95_test_vectors.md part 3, "Cells of `dev` not listed are
0x00"). -/
def unlistedByte : Byte := 0x00#8

/-- The number of register addresses: one-byte addresses 0x00 to 0xFF (R60). -/
def registerSpace : Nat := 256

/-- The canonical form: addresses strictly rising and within the register space, no cell listed with the byte an
unlisted one reads as. -/
abbrev Memory.wf (m : Memory) : Prop :=
  m.Pairwise (fun c d => c.1 < d.1) ∧ ∀ c ∈ m, c.1 < registerSpace ∧ c.2 ≠ unlistedByte

/-- The byte at an address. -/
def Memory.read : Memory → Nat → Byte
  | [], _ => unlistedByte
  | (k, b) :: m, a => if k = a then b else Memory.read m a

/-- Store a byte, keeping the canonical form. -/
def Memory.write : Memory → Nat → Byte → Memory
  | [], a, v => if v = unlistedByte then [] else [(a, v)]
  | (k, b) :: m, a, v =>
    if a < k then
      if v = unlistedByte then (k, b) :: m else (a, v) :: (k, b) :: m
    else if a = k then
      if v = unlistedByte then m else (a, v) :: m
    else (k, b) :: Memory.write m a v

/-- `dev[a]` (R11, R82). -/
def RefDevice.read (d : RefDevice) (a : Byte) : Byte := d.cells.read a.toNat

/-- `dev[a] <- v` (R82). -/
def RefDevice.write (d : RefDevice) (a v : Byte) : RefDevice :=
  { d with cells := d.cells.write a.toNat v }

/-- The bus address a transaction carries. -/
def BusCall.bus : BusCall → Byte
  | .write bus _ => bus
  | .read bus _ => bus

/-- Whether the device is the one addressed: `a = zext_8(DEV_ADDR)` (R82). -/
def RefDevice.hears (d : RefDevice) (c : BusCall) : Bool := c.bus = d.devAddr.setWidth 8

/-- What the reference device offers for a transaction (R82): a read returns `dev[ptr]` and
`dev[(ptr + 1) mod 256]`; nobody answers at another bus address. -/
def RefDevice.offer (d : RefDevice) (c : BusCall) : Offer :=
  if d.hears c then .ok (d.read d.ptr) (d.read (d.ptr + 1)) else .fail d.silence

/-- The reference device after a transaction it hears (R82): a select frame moves the pointer, a write frame moves
the pointer and stores the byte, a read changes nothing. -/
def RefDevice.heard (d : RefDevice) : BusCall → RefDevice
  | .write _ (.one r) => { d with ptr := r }
  | .write _ (.two r v) => { d.write r v with ptr := r }
  | .read _ _ => d

/-- The reference device after a transaction, heard or not (R82: at another bus address, no state change). -/
def RefDevice.after (d : RefDevice) (c : BusCall) : RefDevice :=
  if d.hears c then d.heard c else d

/-- One act of another agent on the device (R73, R82). -/
def RefDevice.act (d : RefDevice) : OtherAct → RefDevice
  | .poke addr value => d.write addr value
  | .point addr => { d with ptr := addr }

/-- The acts of other agents between two transactions, in order. -/
def RefDevice.acts (d : RefDevice) (l : List OtherAct) : RefDevice := l.foldl RefDevice.act d

/-- The register contents the state holds: those of the attached device, nothing where none is attached. -/
def State.memory (s : State) : Memory :=
  match s.device with
  | some d => d.cells
  | none => []

end Sys2Proof.Machine
end

