-- ==== Sys2Proof/Machine/Operands.lean ====
section
/-! DEFINITION. The register-map CSR address decoder (R27 to R30), the constants (R112), the numbers of the
enumerations (R37, R38), the field functions (R108 to R111) and the deserializer (R67). -/

namespace Sys2Proof.Machine

/-- `RegAddr`: the address of each of the twelve normative registers (R27, R29). -/
def regAddr : RegName → Byte
  | .DEVID => 0x00#8
  | .THRESH_TAP => 0x1D#8
  | .BW_RATE => 0x2C#8
  | .POWER_CTL => 0x2D#8
  | .INT_SOURCE => 0x30#8
  | .DATA_FORMAT => 0x31#8
  | .DATAX0 => 0x32#8
  | .DATAX1 => 0x33#8
  | .DATAY0 => 0x34#8
  | .DATAY1 => 0x35#8
  | .DATAZ0 => 0x36#8
  | .DATAZ1 => 0x37#8

/-- The addresses of the eighteen labels of R28. PRESUMED (log 16): no operation uses them. -/
def labelAddr : RegLabel → Byte
  | .OFSX => 0x1E#8
  | .OFSY => 0x1F#8
  | .OFSZ => 0x20#8
  | .DUR => 0x21#8
  | .LATENT => 0x22#8
  | .WINDOW => 0x23#8
  | .THRESH_ACT => 0x24#8
  | .THRESH_INACT => 0x25#8
  | .TIME_INACT => 0x26#8
  | .ACT_INACT_CTL => 0x27#8
  | .THRESH_FF => 0x28#8
  | .TIME_FF => 0x29#8
  | .TAP_AXES => 0x2A#8
  | .ACT_TAP_STATUS => 0x2B#8
  | .INT_ENABLE => 0x2E#8
  | .INT_MAP => 0x2F#8
  | .FIFO_CTL => 0x38#8
  | .FIFO_STATUS => 0x39#8

/-- `AxisBase`: the address of an axis's low data byte (R29). -/
def axisBase : Axis → Byte
  | .X => 0x32#8
  | .Y => 0x34#8
  | .Z => 0x36#8

/-- The register that holds the low byte of an axis's sample (R35). -/
def axisLow : Axis → RegName
  | .X => .DATAX0
  | .Y => .DATAY0
  | .Z => .DATAZ0

/-- The register that holds the high byte of an axis's sample (R35). -/
def axisHigh : Axis → RegName
  | .X => .DATAX1
  | .Y => .DATAY1
  | .Z => .DATAZ1

/-- The code of a range (R37, D12). No rule of the block depends on which range a code means. -/
def rangeCode : RangeSel → Byte
  | .g2 => 0x00#8
  | .g4 => 0x01#8
  | .g8 => 0x02#8
  | .g16 => 0x03#8

/-- The code of a data rate: the variant's own number (R38). -/
def rateCode (r : RateSel) : Byte := BitVec.ofNat 8 r.val

/-- The rate a code stands for, in hundredths of a hertz on the scale of R38: about `0.05 * 2^c` Hz. DEDUCED
(log 19): no operation uses it. -/
def nominalCentihertz (r : RateSel) : Nat := 5 * 2 ^ r.val

/-- `IDENTITY` (R112). -/
def identityByte : Byte := 0xE5#8

/-- `POWER_ON`: the measurement enable bit of POWER_CTL (R33, R112). -/
def powerOn : Byte := 0x08#8

/-- `FULL_RES`: bit 3 of DATA_FORMAT (R34, R112). -/
def fullRes : Byte := 0x08#8

/-- `DataFormatCompose(old, r) = (old & 0xF0) | r | 0x08` (R108). The operand is not masked. -/
def dataFormatCompose (old r : Byte) : Byte := (old &&& 0xF0#8) ||| r ||| fullRes

/-- `RangeOf(v) = v & 0x03`, a 2-bit value (R109). -/
def rangeOf (v : Byte) : BitVec 2 := (v &&& 0x03#8).setWidth 2

/-- `RateOf(v) = v & 0x0F`, a 4-bit value (R110). -/
def rateOf (v : Byte) : BitVec 4 := (v &&& 0x0F#8).setWidth 4

/-- The 16-bit pattern of two bytes read, the first received low: `(zext_16(b1) << 8) | zext_16(b0)` (R66, R67). -/
def lePattern (b0 b1 : Byte) : Pattern := (b1.setWidth 16 <<< 8) ||| b0.setWidth 16

/-- `le16s`, the deserializer: the pattern read as two's complement (R67). -/
def le16s (b0 b1 : Byte) : Int := (lePattern b0 b1).toInt

end Sys2Proof.Machine
end

