-- ==== Sys2Proof/Machine/Ops.lean ====
section
/-! DEFINITION. The shared operations every meaning is built from: starting an operation, one bus transaction, the
register access primitives `MemRead` and `MemWrite` (R64, R65), and the ways an operation ends (R210 to R215, R220,
R228, R241). -/

namespace Sys2Proof.Machine

/-! ## Writing single parts of the state -/

/-- Append one observable event (R6). -/
def State.observe (e : Event) (s : State) : State := { s with trace := s.trace ++ [e] }

/-- `cached_range <- range` (R22): the only write of the field outside reset. -/
def State.setCachedRange (range : Byte) (s : State) : State := { s with cachedRange := range }

/-- The reset event (R240): loads both state fields and empties the sequencer, so that the block is idle. It issues no
transaction, and an operation in progress is abandoned with no response (R241). -/
def State.hostReset (addr : BusAddr) (range : Byte) (s : State) : State :=
  { s with
    busAddr := addr
    cachedRange := range
    seq := none
    trace := s.trace ++ [.reset addr range] }

/-- The sequencer at the first transaction of an operation (R24). -/
def State.start (i : Instr) (s : State) : State := { s with seq := some ⟨i, 0, 0x00#8⟩ }

/-- The operation ends with its response and the block is idle again (R72, R74, R220). This is all that "taking" an
outcome amounts to: nothing is saved, no mode changes, control goes nowhere. -/
def State.respond (r : Response) (s : State) : State :=
  { s with seq := none, trace := s.trace ++ [.response r] }

/-! ## One bus transaction -/

/-- `zext_8(bus_addr)`: the bus address byte of every transaction (R107). -/
def State.busByte (s : State) : Byte := s.busAddr.setWidth 8

/-- The environment's turn at the next transaction; beyond the script, nobody else acts and whatever stands behind
the port answers. -/
def State.turn (s : State) : Turn :=
  match s.script with
  | u :: _ => u
  | [] => ⟨[], .behind⟩

/-- The turn is taken: other agents act on the device (R73). -/
def State.takeTurn (s : State) : State :=
  { s with
    script := s.script.tail
    device := s.device.map fun d => d.acts s.turn.others }

/-- The answer as the transport gives it: exactly as many bytes as the call asks for (R62, R63). -/
def BusCall.answer : BusCall → Offer → Answer
  | _, .fail sig => .fail sig
  | .write _ _, .ok _ _ => .ok []
  | .read _ .one, .ok b0 _ => .ok [b0]
  | .read _ .two, .ok b0 b1 => .ok [b0, b1]

/-- The transaction goes out on the bus and is observed with its answer, if it gets one. -/
def State.issue (c : BusCall) (a : Option Answer) (s : State) : State :=
  { s with calls := s.calls + 1, trace := s.trace ++ [.bus c a] }

/-- The byte the sequencer keeps (R24): the first byte of a read, and what it had before after a write. -/
def BusCall.keeps : BusCall → Byte → Byte → Byte
  | .write _ _, _, held => held
  | .read _ _, b0, _ => b0

/-- The sequencer moves on after a transaction answered `ok` (R24, R72). -/
def State.advance (c : BusCall) (b0 : Byte) (s : State) : State :=
  { s with seq := s.seq.map fun q => { q with pos := q.pos + 1, held := c.keeps b0 q.held } }

/-- How an access to the bus comes out. -/
inductive Access (α : Type)
  /-- answered `ok` -/
  | ok (v : α) (s : State)
  /-- answered `fail(s)` (R213) -/
  | fail (sig : FailSig) (s : State)
  /-- not answered: the call never returns (R228), or a reset abandoned the operation (R241) -/
  | gone (s : State)
deriving Repr

/-- The transaction with an offer made for it. -/
def State.settle (c : BusCall) (o : Offer) (s : State) : Access (Byte × Byte) :=
  match o with
  | .ok b0 b1 => .ok (b0, b1) ((s.issue c (some (c.answer (.ok b0 b1)))).advance c b0)
  | .fail sig => .fail sig (s.issue c (some (.fail sig)))

/-- Whatever stands behind the port answers: the attached reference device (R82), else the free value (R80, R81). -/
def State.behind (c : BusCall) (s : State) : Access (Byte × Byte) :=
  match s.device with
  | some d => { s with device := some (d.after c) }.settle c (d.offer c)
  | none =>
    match Config.freeAnswer s.calls with
    | some o => s.settle c o
    | none => .gone (s.issue c none)

/-- A reset that arrives once an access has come out, before the block goes on (R241): the operation is abandoned,
whatever the outcome was. -/
def Access.thenReset {α : Type} (addr : BusAddr) (range : Byte) : Access α → Access α
  | .ok _ s => .gone (s.hostReset addr range)
  | .fail _ s => .gone (s.hostReset addr range)
  | .gone s => .gone (s.hostReset addr range)

/-- One bus transaction of the block (R62, R63, R72): it blocks until the transport answers. Where the call never
returns, or a reset ends the wait for it, the spec does not say whether the sensor took the transaction. DESIGN CHOICE
(log 23): the attached device does not see it; an act of the same turn shows that the sensor took it. -/
def State.call (c : BusCall) (s : State) : Access (Byte × Byte) :=
  match s.turn.verdict with
  | .behind => s.takeTurn.behind c
  | .answer o => s.takeTurn.settle c o
  | .never => .gone (s.takeTurn.issue c none)
  | .resetBefore addr range => .gone (s.takeTurn.hostReset addr range)
  | .resetDuring addr range => .gone ((s.takeTurn.issue c none).hostReset addr range)
  | .resetAfter none addr range => (s.takeTurn.behind c).thenReset addr range
  | .resetAfter (some o) addr range => (s.takeTurn.settle c o).thenReset addr range

/-! ## The register access primitives -/

/-- Sequencing inside a primitive: the first access that does not answer `ok` is the result (R65, R213). -/
def Access.andThen {α β : Type} (x : Access α) (k : α → State → Access β) : Access β :=
  match x with
  | .ok v s => k v s
  | .fail sig s => .fail sig s
  | .gone s => .gone s

/-- `BusWrite(zext_8(bus_addr), p)` (R62). -/
def busWrite (p : Payload) (s : State) : Access Unit :=
  (s.call (.write s.busByte p)).andThen fun _ t => .ok () t

/-- `BusRead(zext_8(bus_addr), 1)` (R63). -/
def busRead1 (s : State) : Access Byte :=
  (s.call (.read s.busByte .one)).andThen fun b t => .ok b.1 t

/-- `BusRead(zext_8(bus_addr), 2)` (R63): the byte received first comes first. -/
def busRead2 (s : State) : Access (Byte × Byte) :=
  s.call (.read s.busByte .two)

/-- `MemWrite(addr, 1, v)`: one write frame (R64). -/
def memWrite (addr v : Byte) (s : State) : Access Unit := busWrite (.two addr v) s

/-- `MemRead(addr, 1)`: the select frame, then a separate 1-byte read (R65). -/
def memRead1 (addr : Byte) (s : State) : Access Byte :=
  (busWrite (.one addr) s).andThen fun _ t => busRead1 t

/-- `MemRead(addr, 2)`: one select frame, then one 2-byte read (R65). -/
def memRead2 (addr : Byte) (s : State) : Access (Byte × Byte) :=
  (busWrite (.one addr) s).andThen fun _ t => busRead2 t

/-! ## How an operation ends -/

/-- The `?` of R11: a failure ends the operation with response `fail(s)`, `s` unchanged (R213); no answer, no
response. -/
def Access.orFail {α : Type} (x : Access α) (k : α → State → State) : State :=
  match x with
  | .ok v s => k v s
  | .fail sig s => s.respond (.fail sig)
  | .gone s => s

/-- The response of initialize to a failure after its identity read (R215). -/
def lateResponse (policy : InitLateFail) (sig : FailSig) : Response :=
  match policy with
  | .propagate => .fail sig
  | .reportFalse => .ok (.bool false)

/-- The `?` of the later steps of initialize (R140, R215). -/
def Access.orLateFail {α : Type} (x : Access α) (k : α → State → State) : State :=
  match x with
  | .ok v s => k v s
  | .fail sig s => s.respond (lateResponse s.lateFail sig)
  | .gone s => s

/-- The identity read of initialize: a failure is "not this device", and the signal is dropped (R214). -/
def Access.orNotThisDevice {α : Type} (x : Access α) (k : α → State → State) : State :=
  match x with
  | .ok v s => k v s
  | .fail _ s => s.respond (.ok (.bool false))
  | .gone s => s

/-! ## Bodies that several operations share -/

/-- The range-setting step (R140, R150): read DATA_FORMAT, write the composed byte back, then update the cache. -/
def rangeStep (range : Byte) (s : State) : Access Unit :=
  (memRead1 (regAddr .DATA_FORMAT) s).andThen fun old t =>
    (memWrite (regAddr .DATA_FORMAT) (dataFormatCompose old range) t).andThen fun _ u =>
      .ok () (u.setCachedRange range)

/-- Read one register and respond with a value made from the byte. -/
def readAndRespond (addr : Byte) (f : Byte → Value) (s : State) : State :=
  (memRead1 addr s).orFail fun v t => t.respond (.ok (f v))

/-- Read one word and respond with the signed integer (R172, R113). -/
def readWordAndRespond (addr : Byte) (s : State) : State :=
  (memRead2 addr s).orFail fun b t => t.respond (.ok (.int16 (le16s b.1 b.2)))

/-- Write one register and respond (R171). -/
def writeAndRespond (addr v : Byte) (s : State) : State :=
  (memWrite addr v s).orFail fun _ t => t.respond (.ok .unit)

end Sys2Proof.Machine
end

