-- ==== Sys2Proof/Machine/AxisRead.lean ====
section
/-! DEFINITION. The axis sample family (44_axis_read.md): the raw signed count, no scale, offset or clamp. -/

namespace Sys2Proof.Machine

/-- `getX()` (R190). -/
def execGetX (s : State) : Host.Outcome State Fault Refusal :=
  .next <| readWordAndRespond (axisBase .X) (s.start .getX)

/-- `getY()` (R191): the Y base 0x34, never 0x32 (R252). -/
def execGetY (s : State) : Host.Outcome State Fault Refusal :=
  .next <| readWordAndRespond (axisBase .Y) (s.start .getY)

/-- `getZ()` (R192). -/
def execGetZ (s : State) : Host.Outcome State Fault Refusal :=
  .next <| readWordAndRespond (axisBase .Z) (s.start .getZ)

end Sys2Proof.Machine
end

