-- ==== Sys2Proof/Machine/DataRate.lean ====
section
/-! DEFINITION. The output data rate family (42_data_rate.md). -/

namespace Sys2Proof.Machine

/-- `setDataRate(rate)` (R160, R111): the whole BW_RATE byte is overwritten with the operand, unmasked. -/
def execSetDataRate (rate : Byte) (s : State) : Host.Outcome State Fault Refusal :=
  .next <| writeAndRespond (regAddr .BW_RATE) rate (s.start (.setDataRate rate))

/-- `getDataRate()` (R161): the low four bits of BW_RATE. -/
def execGetDataRate (s : State) : Host.Outcome State Fault Refusal :=
  .next <| readAndRespond (regAddr .BW_RATE) (fun v => .code4 (rateOf v)) (s.start .getDataRate)

end Sys2Proof.Machine
end

