-- ==== Sys2Proof/Machine/DeviceId.lean ====
section
/-! DEFINITION. The device identity family (45_device_id.md). -/

namespace Sys2Proof.Machine

/-- `getDeviceID()` (R200): the byte as read; it is not compared with the identity constant. -/
def execGetDeviceID (s : State) : Host.Outcome State Fault Refusal :=
  .next <| readAndRespond (regAddr .DEVID) .byte (s.start .getDeviceID)

end Sys2Proof.Machine
end

