-- ==== Sys2Proof/Machine/Initialize.lean ====
section
/-! DEFINITION. The initialization family (40_initialize.md). -/

namespace Sys2Proof.Machine

/-- `initialize()` (R140, R141, R214, R215): identity read, then the POWER_CTL write, then the range-setting step with
the cached range. Nothing is written unless the identity byte matches. -/
def execInitialise (s : State) : Host.Outcome State Fault Refusal :=
  .next <|
    (memRead1 (regAddr .DEVID) (s.start .initialise)).orNotThisDevice fun id t =>
      if id = identityByte then
        (memWrite (regAddr .POWER_CTL) powerOn t).orLateFail fun _ u =>
          (rangeStep u.cachedRange u).orLateFail fun _ v => v.respond (.ok (.bool true))
      else t.respond (.ok (.bool false))

end Sys2Proof.Machine
end

