-- ==== Sys2Proof/Machine/Range.lean ====
section
/-! DEFINITION. The measurement range family (41_range.md). -/

namespace Sys2Proof.Machine

/-- `setRange(range)` (R150): the range-setting step; the cache takes all 8 bits of the operand, and only when all
three transactions answered `ok`. -/
def execSetRange (range : Byte) (s : State) : Host.Outcome State Fault Refusal :=
  .next <| (rangeStep range (s.start (.setRange range))).orFail fun _ t => t.respond (.ok .unit)

/-- `getRange()` (R151): reads the sensor, not the cache, and keeps the low two bits. -/
def execGetRange (s : State) : Host.Outcome State Fault Refusal :=
  .next <| readAndRespond (regAddr .DATA_FORMAT) (fun v => .code2 (rangeOf v)) (s.start .getRange)

end Sys2Proof.Machine
end

