-- ==== Sys2Proof/Machine/RegisterAccess.lean ====
section
/-! DEFINITION. The raw register access family (43_register_access.md). No address and no value is refused (R70). -/

namespace Sys2Proof.Machine

/-- `readRegister(addr)` (R170): the byte, unmasked. -/
def execReadRegister (addr : Byte) (s : State) : Host.Outcome State Fault Refusal :=
  .next <| readAndRespond addr .byte (s.start (.readRegister addr))

/-- `writeRegister(addr, byte)` (R171): one write frame; `cached_range` is not touched. -/
def execWriteRegister (addr value : Byte) (s : State) : Host.Outcome State Fault Refusal :=
  .next <| writeAndRespond addr value (s.start (.writeRegister addr value))

/-- `readRegisterWord(addr)` (R172): one 2-byte read, little-endian two's complement; any address (R68, R71). -/
def execReadRegisterWord (addr : Byte) (s : State) : Host.Outcome State Fault Refusal :=
  .next <| readWordAndRespond addr (s.start (.readRegisterWord addr))

end Sys2Proof.Machine
end

