-- ==== Sys2Proof/Machine/Dispatch.lean ====
section
/-! DEFINITION. The meaning of an accepted operation, one arm per constructor of `Instr`. -/

namespace Sys2Proof.Machine

def exec (i : Instr) (s : State) : Host.Outcome State Fault Refusal :=
  match i with
  | .initialise => Sys2Proof.Machine.execInitialise s
  | .setRange range => Sys2Proof.Machine.execSetRange range s
  | .getRange => Sys2Proof.Machine.execGetRange s
  | .setDataRate rate => Sys2Proof.Machine.execSetDataRate rate s
  | .getDataRate => Sys2Proof.Machine.execGetDataRate s
  | .readRegister addr => Sys2Proof.Machine.execReadRegister addr s
  | .writeRegister addr value => Sys2Proof.Machine.execWriteRegister addr value s
  | .readRegisterWord addr => Sys2Proof.Machine.execReadRegisterWord addr s
  | .getX => Sys2Proof.Machine.execGetX s
  | .getY => Sys2Proof.Machine.execGetY s
  | .getZ => Sys2Proof.Machine.execGetZ s
  | .getDeviceID => Sys2Proof.Machine.execGetDeviceID s

end Sys2Proof.Machine
end

