-- ==== Sys2Proof/Machine/HostPort.lean ====
section
/-! DEFINITION. The command port (R74, R77, R103, R104): accepting a command word, running it or answering `illegal`,
and presenting a program (R116). -/

namespace Sys2Proof.Machine

/-- The command word leaves the host and is observed. -/
def State.accept (cw : CmdWord) (rest : List HostEvent) (s : State) : State :=
  { s with inbox := rest }.observe (.command cw)

/-- Decode first (R104, R219), then run the operation; a reserved word is answered `illegal`, with no transaction and
no change of state (R103, R217). -/
def runCommand (cw : CmdWord) (s : State) : Host.Outcome State Fault Refusal :=
  match decode cw with
  | some i => exec i s
  | none => .next (s.respond .illegal)

/-- A command is taken only when the block is idle (R74). While a transport call has not returned the block is busy and
nothing happens (R228). -/
def presentCommand (cw : CmdWord) (rest : List HostEvent) (s : State) : Host.Outcome State Fault Refusal :=
  match s.seq with
  | none => runCommand cw (s.accept cw rest)
  | some _ => .next s

/-- The host resets the block (R240, R241): at any time, idle or busy. -/
def presentReset (addr : BusAddr) (range : Byte) (rest : List HostEvent) (s : State) :
    Host.Outcome State Fault Refusal :=
  .next ({ s with inbox := rest }.hostReset addr range)

/-- With nothing presented the block waits (R242). -/
def hostStep (s : State) : Host.Outcome State Fault Refusal :=
  match s.inbox with
  | [] => .next s
  | .command cw :: rest => presentCommand cw rest s
  | .reset addr range :: rest => presentReset addr range rest s

/-- The host will present one command word next, to an idle block. -/
def presentNext (cw : CmdWord) (s : State) : State :=
  { s with seq := none, inbox := .command cw :: s.inbox }

/-- A program (R116): a list of operations, issued in order, each after the response to the one before. -/
def State.withProgram (program : List Instr) (s : State) : State :=
  { s with inbox := s.inbox ++ program.map fun i => .command (encode i) }

end Sys2Proof.Machine
end

