-- ==== Sys2Proof/Machine/Step.lean ====
section
/-! DEFINITION. One step: the host's next event at the command port. A command that is accepted runs to its response
within the step (R24, R74). -/

namespace Sys2Proof.Machine

/-- The step. -/
def step (s : State) : Host.Outcome State Fault Refusal := hostStep s

/-- The state in which the very next step runs the instruction whose word is `w`: commands are not fetched from a
memory, they arrive on the command port (R77), so the word is put first among the host's events, and the block is
idle. -/
def State.withFetchWord (s : State) (nbits w : Nat) : State := presentNext (tableWord nbits w) s

end Sys2Proof.Machine
end

