-- ==== Sys2Proof/Machine/Sequencer.lean ====
section
/-! DEFINITION. The sequencer reading of R24 and R106: at each position of an operation, which transaction comes next,
and what an `ok` or a failure at that position leads to. It is written as a table, apart from the meanings in the
family files, which follow the pseudocode; that the two agree is a statement. -/

namespace Sys2Proof.Machine

/-- The transactions an operation issues when nothing ends it early, in order (R72, R106). `held` is the byte the
sequencer kept: the old DATA_FORMAT byte, where a later transaction needs it. -/
def planOf (bus cached held : Byte) : Instr → List BusCall
  | .initialise =>
    [ .write bus (.one 0x00#8), .read bus .one, .write bus (.two 0x2D#8 0x08#8),
      .write bus (.one 0x31#8), .read bus .one, .write bus (.two 0x31#8 (dataFormatCompose held cached)) ]
  | .setRange range =>
    [ .write bus (.one 0x31#8), .read bus .one, .write bus (.two 0x31#8 (dataFormatCompose held range)) ]
  | .getRange => [ .write bus (.one 0x31#8), .read bus .one ]
  | .setDataRate rate => [ .write bus (.two 0x2C#8 rate) ]
  | .getDataRate => [ .write bus (.one 0x2C#8), .read bus .one ]
  | .readRegister addr => [ .write bus (.one addr), .read bus .one ]
  | .writeRegister addr value => [ .write bus (.two addr value) ]
  | .readRegisterWord addr => [ .write bus (.one addr), .read bus .two ]
  | .getX => [ .write bus (.one 0x32#8), .read bus .two ]
  | .getY => [ .write bus (.one 0x34#8), .read bus .two ]
  | .getZ => [ .write bus (.one 0x36#8), .read bus .two ]
  | .getDeviceID => [ .write bus (.one 0x00#8), .read bus .one ]

/-- The transaction at the sequencer's position. -/
def Seq.plan (bus cached : Byte) (q : Seq) : Option BusCall :=
  (planOf bus cached q.held q.instr)[q.pos]?

/-- How many transactions a full run of the operation issues (R254). -/
def fullCount : Instr → Nat
  | .initialise => 6
  | .setRange _ => 3
  | .getRange => 2
  | .setDataRate _ => 1
  | .getDataRate => 2
  | .readRegister _ => 2
  | .writeRegister _ _ => 1
  | .readRegisterWord _ => 2
  | .getX => 2
  | .getY => 2
  | .getZ => 2
  | .getDeviceID => 2

/-- The value an operation returns once its last transaction answered `ok` with these bytes. -/
def finalValue (i : Instr) (b0 b1 : Byte) : Value :=
  match i with
  | .initialise => .bool true
  | .setRange _ => .unit
  | .getRange => .code2 (rangeOf b0)
  | .setDataRate _ => .unit
  | .getDataRate => .code4 (rateOf b0)
  | .readRegister _ => .byte b0
  | .writeRegister _ _ => .unit
  | .readRegisterWord _ => .int16 (le16s b0 b1)
  | .getX => .int16 (le16s b0 b1)
  | .getY => .int16 (le16s b0 b1)
  | .getZ => .int16 (le16s b0 b1)
  | .getDeviceID => .byte b0

/-- The response an `ok` at a position leads to, if the operation ends there: the identity mismatch of initialize
(R140, R212), or the end of the operation. -/
def Seq.closes (q : Seq) (b0 b1 : Byte) : Option Value :=
  if q.instr = .initialise ∧ q.pos = 1 ∧ b0 ≠ identityByte then some (.bool false)
  else if q.pos + 1 = fullCount q.instr then some (finalValue q.instr b0 b1)
  else none

/-- The response a failure at a position leads to (R213 to R215). -/
def Seq.failsWith (policy : InitLateFail) (q : Seq) (sig : FailSig) : Response :=
  if q.instr = .initialise then
    if q.pos < 2 then .ok (.bool false) else lateResponse policy sig
  else .fail sig

/-- The cache after the operation ended with `ok` at its last transaction (R22). -/
def Seq.commits (q : Seq) (s : State) : State :=
  match q.instr with
  | .setRange range => s.setCachedRange range
  | _ => s

/-- The sequencer, run for at most `n` transactions: it stops when the operation has ended, or when a call is not
answered. -/
def runSequencer : Nat → State → State
  | 0, s => s
  | n + 1, s =>
    match s.seq with
    | none => s
    | some q =>
      match q.plan s.busByte s.cachedRange with
      | none => s
      | some c =>
        match s.call c with
        | .gone t => t
        | .fail sig t => t.respond (q.failsWith t.lateFail sig)
        | .ok (b0, b1) t =>
          match q.closes b0 b1 with
          | some v => (q.commits t).respond (.ok v)
          | none => runSequencer n t

end Sys2Proof.Machine
end

