-- ==== Sys2Proof/Safety.lean ====
section
/-! DEFINITION. The terms claims use: what a run has shown (the history of its events, the ghost lifecycle of R26), what
a well-kept state is, and how two states may differ. -/

namespace Sys2Proof.Machine

/-! ## Idle and busy -/

/-- The block is idle: it will take a command (R74). -/
abbrev State.Idle (s : State) : Prop := s.seq = none

/-- The environment's turn resets the block in mid-operation (R241). -/
def Turn.resets (u : Turn) : Bool :=
  match u.verdict with
  | .resetBefore _ _ => true
  | .resetDuring _ _ => true
  | .resetAfter _ _ _ => true
  | _ => false

/-- No reset will arrive in mid-operation. -/
abbrev State.Undisturbed (s : State) : Prop := ∀ u ∈ s.script, u.resets = false

/-- Nobody but the block acts on the bus, nothing is injected, and the device answers: the premise "no other master
acts and no transaction fails" of R83, for a device at the block's bus address. -/
def State.AloneWith (s : State) (d : RefDevice) : Prop :=
  s.script = [] ∧ s.device = some d ∧ d.devAddr = s.busAddr

/-- The script's next turns are `us`, and the transport answers in them with these offers, one each; others may do
anything to the device in between. `rest` is what remains of the script. -/
structure State.Hears (s : State) (us : List Turn) (offers : List Offer) (rest : List Turn) : Prop where
  verdicts : us.map (·.verdict) = offers.map .answer
  script : s.script = us ++ rest

/-! ## Transactions as events -/

/-- The select frame `{addr}` with its answer (R106). -/
def State.select (s : State) (addr : Byte) (a : Answer) : Event := .bus (.write s.busByte (.one addr)) (some a)

/-- The write frame `{addr, v}` with its answer (R106). -/
def State.frame (s : State) (addr v : Byte) (a : Answer) : Event := .bus (.write s.busByte (.two addr v)) (some a)

/-- The 1-byte read with its answer (R106). -/
def State.read1 (s : State) (a : Answer) : Event := .bus (.read s.busByte .one) (some a)

/-- The 2-byte read with its answer (R106). -/
def State.read2 (s : State) (a : Answer) : Event := .bus (.read s.busByte .two) (some a)

/-! ## Frames -/

/-- The block's fields other than `cached_range` and the sequencer, and the host's coming events, are as before. -/
structure Kept (s t : State) : Prop where
  busAddr : t.busAddr = s.busAddr
  lateFail : t.lateFail = s.lateFail
  inbox : t.inbox = s.inbox

/-- How an operation left the state `s` when the transport's turns were `us`: every field of `t`. The block is idle;
`cached_range` is `range`; exactly the transactions `bus` were observed, then the response `r`; the script has `rest`
left; and the device has seen what others did, and nothing else, since the transport answered in its place. -/
structure Result (s t : State) (us rest : List Turn) (bus : List Event) (r : Response) (range : Byte) : Prop where
  kept : Kept s t
  cachedRange : t.cachedRange = range
  idle : t.Idle
  device : t.device = s.device.map fun d => d.acts (us.flatMap (·.others))
  script : t.script = rest
  calls : t.calls = s.calls + bus.length
  trace : t.trace = s.trace ++ bus ++ [.response r]

/-- How an operation left the state `s` when the reference device was alone with the block: every field of `t`, with
the device as `d`. -/
structure DeviceResult (s t : State) (d : RefDevice) (bus : List Event) (r : Response) (range : Byte) : Prop where
  kept : Kept s t
  cachedRange : t.cachedRange = range
  idle : t.Idle
  device : t.device = some d
  script : t.script = []
  calls : t.calls = s.calls + bus.length
  trace : t.trace = s.trace ++ bus ++ [.response r]

/-- The device `e` holds what `d` held, but for the cell `a`. -/
def RefDevice.SameBut (d e : RefDevice) (a : Byte) : Prop := ∀ b, b ≠ a → e.read b = d.read b

/-! ## Events -/

/-- The event of the reset. -/
def Event.isReset : Event → Bool
  | .reset _ _ => true
  | _ => false

/-- The event of a response. -/
def Event.isResponse : Event → Bool
  | .response _ => true
  | _ => false

/-- A transaction answered `ok`. -/
def Event.answeredOk : Event → Bool
  | .bus _ (some (.ok _)) => true
  | _ => false

/-- A transaction on the bus, whatever its answer. -/
def Event.isBus : Event → Bool
  | .bus _ _ => true
  | _ => false

/-- The block never issues a read that is not immediately preceded, among its own transactions, by a select frame
answered `ok` (R65, R106). -/
def ReadsFollowSelect (trace : List Event) : Prop :=
  ∀ before after bus n answer, trace = before ++ .bus (.read bus n) answer :: after →
    ∃ before' addr, before = before' ++ [.bus (.write bus (.one addr)) (some (.ok []))]

/-- Every transaction carries a 7-bit bus address, zero-extended (R107). -/
def CarriesBusAddr (trace : List Event) : Prop :=
  ∀ c answer, .bus c answer ∈ trace → c.bus.getLsbD 7 = false

/-! ## History: what the events say the block must hold -/

/-- What the observed events determine: the two fields' values (R21, R23), the last data rate set, whether the block is
live (R26), and the operation in progress. -/
structure History where
  busAddr : BusAddr
  range : Byte
  rate : Option Byte
  live : Bool
  running : Option Instr
deriving DecidableEq, Repr

/-- Before the first reset nothing is known; these values are overwritten by the first reset. -/
def History.empty : History := ⟨0#7, 0#8, none, false, none⟩

/-- An operation that completed with `ok` (R23, R26): setRange leaves its operand as the range, setDataRate its operand
as the rate, and an initialize that returned `ok(true)` makes the block live. -/
def History.completed (h : History) (v : Value) : History :=
  match h.running with
  | some (.setRange range) => { h with range := range, running := none }
  | some (.setDataRate rate) => { h with rate := some rate, running := none }
  | some .initialise => { h with live := h.live || decide (v = .bool true), running := none }
  | _ => { h with running := none }

/-- One event. -/
def History.see (h : History) : Event → History
  | .reset addr range => ⟨addr, range, none, false, none⟩
  | .command cw => { h with running := decode cw }
  | .bus _ _ => h
  | .response (.ok v) => h.completed v
  | .response _ => { h with running := none }

/-- The history of a list of events, oldest first. -/
def historyOf (trace : List Event) : History := trace.foldl History.see History.empty

/-- The ghost lifecycle of R26. -/
inductive Lifecycle
  | uninitialized
  | configured (range : Byte) (rate : Option Byte)
deriving DecidableEq, Repr

/-- The lifecycle the events show: `Configured(r, rate)` with `r = cached_range` after an initialize that returned
`ok(true)`, and no rate where only the sensor knows it. -/
def History.lifecycle (h : History) : Lifecycle :=
  if h.live then .configured h.range h.rate else .uninitialized

/-- The state is what its events say (R21, R22, R23): `bus_addr` is the last reset's, `cached_range` is the last
reset's range or the operand of the last setRange that completed with `ok` since, and the sequencer is at work exactly
on the command that has no response yet (R24). -/
structure State.MatchesHistory (s : State) : Prop where
  busAddr : s.busAddr = (historyOf s.trace).busAddr
  cachedRange : s.cachedRange = (historyOf s.trace).range
  running : s.seq.map (·.instr) = (historyOf s.trace).running

/-- The register contents held are in canonical form. -/
abbrev State.memoryWf (s : State) : Prop := s.memory.wf

/-- The sequencer is empty, or stands at a transaction its operation has (R24). -/
def State.SeqLegal (s : State) : Prop :=
  ∀ q, s.seq = some q → q.pos < fullCount q.instr

/-- A safe state: one that keeps its memory form, its sequencer positions, the transaction shapes of R106 and R107, and
agrees with its history. -/
structure State.Safe (s : State) : Prop where
  memory : s.memoryWf
  seq : s.SeqLegal
  selects : ReadsFollowSelect s.trace
  carries : CarriesBusAddr s.trace
  matchesHistory : s.MatchesHistory

/-! ## Two runs -/

/-- The same block and the same observations: everything the host and the bus can see, and the block's own fields. -/
structure SameSeen (s t : State) : Prop where
  busAddr : t.busAddr = s.busAddr
  cachedRange : t.cachedRange = s.cachedRange
  seq : t.seq = s.seq
  trace : t.trace = s.trace

/-- The sequencer's operation set aside: two states that differ at most in which operation a busy sequencer is at. -/
def State.forgetInstr (s : State) : State :=
  { s with seq := s.seq.map fun q => { q with instr := .initialise } }

/-- A turn that does not depend on what stands behind the port. -/
def Turn.fixed (u : Turn) : Bool :=
  match u.verdict with
  | .behind => false
  | .resetAfter none _ _ => false
  | _ => true

/-! ## Renaming failure signals -/

/-- A renaming of signals, at each place a signal can stand. -/
def renameOffer (f : FailSig → FailSig) : Offer → Offer
  | .ok b0 b1 => .ok b0 b1
  | .fail sig => .fail (f sig)

/-- See `renameOffer`. -/
def Verdict.rename (f : FailSig → FailSig) : Verdict → Verdict
  | .answer o => .answer (renameOffer f o)
  | .resetAfter o addr range => .resetAfter (o.map (renameOffer f)) addr range
  | v => v

/-- See `renameOffer`. -/
def Event.rename (f : FailSig → FailSig) : Event → Event
  | .bus c (some (.fail sig)) => .bus c (some (.fail (f sig)))
  | .response (.fail sig) => .response (.fail (f sig))
  | e => e

/-- A state with every signal renamed: in the script, in the device, and in the events. -/
def State.rename (f : FailSig → FailSig) (s : State) : State :=
  { s with
    script := s.script.map fun u => { u with verdict := u.verdict.rename f }
    device := s.device.map fun d => { d with silence := f d.silence }
    trace := s.trace.map (Event.rename f) }

end Sys2Proof.Machine
end

