-- ==== Sys2Proof/Certificates/Slice0/Obligations.lean ====
section
/-! DEFINITION. The statements about the machine, each a Prop for the provers. -/

open Sys2Proof Sys2Proof.Machine

/-! ## Encoding -/

/-- Decoding an encoded operation gives it back, with every operand at every value (R100, R101, R116). -/
def Obligations.DecodeEncodeRoundTrip : Prop :=
  ∀ i : Instr, i.wellFormed = true → decode (encode i) = some i

/-- A command word that decodes is the encoding of what it decodes to: each word has one meaning and no operation a
second spelling (R101, R103). -/
def Obligations.DecodedWordReencodes : Prop :=
  ∀ (cw : CmdWord) (i : Instr), decode cw = some i → encode i = cw ∧ i.wellFormed = true

/-- The decoder reads exactly the rows of the opcode table, with the operands in bits 15:8 and 7:0, and no word spells
two rows (R102, R104). -/
def Obligations.DecodeMatchesOpcodeTable : Prop :=
  (∀ (cw : CmdWord) (i : Instr), decode cw = some i ↔
    ∃ row ∈ opcodeTable, row.spells cw ∧ i = row.instr (cw.extractLsb' 8 8) (cw.extractLsb' 0 8)) ∧
  opcodeTable.Pairwise (fun p q => ∀ cw : CmdWord, ¬ (p.spells cw ∧ q.spells cw))

/-- The reserved words (R103): operation codes 0x00 and 0x0D to 0xFF, and words of format N or A with a nonzero
must-be-zero field. -/
def Obligations.ReservedWordsAreExactly : Prop :=
  ∀ op a b : Byte, decode (packFields op a b) = none ↔
    op = 0x00#8 ∨ 0x0D#8 ≤ op ∨
    (op ∈ [0x01#8, 0x03#8, 0x05#8, 0x09#8, 0x0A#8, 0x0B#8, 0x0C#8] ∧ (a ≠ 0x00#8 ∨ b ≠ 0x00#8)) ∨
    (op ∈ [0x02#8, 0x04#8, 0x06#8, 0x08#8] ∧ b ≠ 0x00#8)

/-- A few command words written out from R102. -/
def Obligations.SampleWordsDecode : Prop :=
  decode 0x010000#24 = some .initialise ∧ decode 0x020300#24 = some (.setRange 0x03#8) ∧
  decode 0x040A00#24 = some (.setDataRate 0x0A#8) ∧ decode 0x063100#24 = some (.readRegister 0x31#8) ∧
  decode 0x072D08#24 = some (.writeRegister 0x2D#8 0x08#8) ∧ decode 0x083200#24 = some (.readRegisterWord 0x32#8) ∧
  decode 0x0A0000#24 = some .getY ∧ decode 0x0C0000#24 = some .getDeviceID ∧
  decode 0x000000#24 = none ∧ decode 0x020301#24 = none

/-- The response word (R105): status in bits 17:16, never 3; the value in bits 15:0, zero unless the status is 0; a
signed result is recovered from its pattern. -/
def Obligations.ResponseWordFields : Prop :=
  (∀ r : Response, r.word.extractLsb' 16 2 ≠ 3#2) ∧
  (∀ r : Response, r.word.extractLsb' 16 2 ≠ 0#2 → r.word.extractLsb' 0 16 = 0#16) ∧
  (∀ v : Value, (Response.ok v).word.extractLsb' 16 2 = 0#2) ∧
  (∀ sig : FailSig, (Response.fail sig).word.extractLsb' 16 2 = 1#2 ∧ (Response.fail sig).signal = some sig) ∧
  Response.illegal.word.extractLsb' 16 2 = 2#2 ∧
  (∀ v : Bool, (Response.ok (.bool v)).word.toNat = if v then 1 else 0) ∧
  (Response.ok .unit).word.toNat = 0 ∧
  (∀ v : BitVec 2, (Response.ok (.code2 v)).word.toNat = v.toNat) ∧
  (∀ v : BitVec 4, (Response.ok (.code4 v)).word.toNat = v.toNat) ∧
  (∀ v : Byte, (Response.ok (.byte v)).word.toNat = v.toNat) ∧
  (∀ b0 b1 : Byte, ((Response.ok (.int16 (le16s b0 b1))).word.extractLsb' 0 16).toNat = b1.toNat * 256 + b0.toNat)

/-! ## Field functions -/

/-- `DataFormatCompose` bit by bit, its result for a legal code, and its examples (R108). -/
def Obligations.DataFormatComposeBits : Prop :=
  (∀ old r : Byte, dataFormatCompose old r = (old &&& 0xF0#8) ||| r ||| 0x08#8) ∧
  (∀ old r : Byte, r.toNat ≤ 3 →
    (dataFormatCompose old r).extractLsb' 4 4 = old.extractLsb' 4 4 ∧
    (dataFormatCompose old r).getLsbD 3 = true ∧
    (dataFormatCompose old r).getLsbD 2 = false ∧
    (dataFormatCompose old r).extractLsb' 0 2 = r.extractLsb' 0 2) ∧
  dataFormatCompose 0x00#8 1#8 = 0x09#8 ∧ dataFormatCompose 0xB4#8 1#8 = 0xB9#8 ∧
  dataFormatCompose 0xFF#8 0#8 = 0xF8#8

/-- `RangeOf` keeps the low two bits, and recovers every legal range code that was composed (R109). -/
def Obligations.RangeOfRecoversCode : Prop :=
  (∀ v : Byte, (rangeOf v).toNat = v.toNat % 4) ∧
  ∀ old r : Byte, r.toNat ≤ 3 → (rangeOf (dataFormatCompose old r)).toNat = r.toNat

/-- The deserializer: little-endian two's complement, in range, injective, with the source's three values (R67). -/
def Obligations.DeserializerIsSignedLittleEndian : Prop :=
  (∀ b0 b1 : Byte, le16s b0 b1 =
    if b1.toNat * 256 + b0.toNat < 32768 then ((b1.toNat * 256 + b0.toNat : Nat) : Int)
    else ((b1.toNat * 256 + b0.toNat : Nat) : Int) - 65536) ∧
  (∀ b0 b1 : Byte, -32768 ≤ le16s b0 b1 ∧ le16s b0 b1 ≤ 32767) ∧
  (∀ b0 b1 c0 c1 : Byte, le16s b0 b1 = le16s c0 c1 → b0 = c0 ∧ b1 = c1) ∧
  le16s 0xFF#8 0xFF#8 = -1 ∧ le16s 0x00#8 0x80#8 = -32768 ∧ le16s 0xFF#8 0x7F#8 = 32767

/-! ## Reset, the command port and the step -/

/-- A reset event, in any state, loads the two fields with its arguments, empties the sequencer, issues no transaction and
leaves the sensor and the rest of the environment alone (R240). The only busy state between two steps is the stuck block
of R228; that a reset brings it out is the model's reading of R241 (log 7). That `State.reset` holds the default bus
address 0x53 is the model's choice among the addresses the host may supply (log 2). -/
def Obligations.ResetEventLoadsItsArguments : Prop :=
  (∀ (s : State) (addr : BusAddr) (range : Byte) (rest : List HostEvent), s.inbox = .reset addr range :: rest →
    step s = .next { s with busAddr := addr, cachedRange := range, seq := none, inbox := rest,
                            trace := s.trace ++ [.reset addr range] }) ∧
  State.reset.busAddr = 0x53#7

/-- Right after reset the block is idle with the sequencer empty, `bus_addr` holds the default, `cached_range` the open
parameter, no transaction was issued, and the state is safe: the register contents are in canonical form, and the state
agrees with its events (R41 to R43). That the open parameter is one constant with no body is the model's choice (log 1),
and so are the values of the fields that are the model's own (log 3, 4, 9, 11, 14). -/
def Obligations.ResetStateIsSafe : Prop :=
  State.reset.Safe ∧ State.reset.Idle ∧ State.reset.busAddr = 0x53#7 ∧ State.reset.cachedRange = Config.rangeReset ∧
  ∀ e ∈ State.reset.trace, e.isBus = false

/-- A step of an idle block with a command presented observes the command and runs the operation it decodes to; the
same for a word placed by `withFetchWord` (R74, R104). -/
def Obligations.StepRunsDecodedCommand : Prop :=
  (∀ (s : State) (cw : CmdWord) (rest : List HostEvent) (i : Instr),
    s.Idle → s.inbox = .command cw :: rest → decode cw = some i →
    step s = exec i { s with inbox := rest, trace := s.trace ++ [.command cw] }) ∧
  (∀ (s : State) (i : Instr),
    step (s.withFetchWord 24 (encode i).toNat) =
      exec i { s with seq := none, trace := s.trace ++ [.command (encode i)] })

/-- A reserved command word is answered `illegal` before anything else: no transaction, no change of state, idle again
(R217, R103). -/
def Obligations.ReservedWordAnswersIllegal : Prop :=
  ∀ (s : State) (cw : CmdWord) (rest : List HostEvent),
    s.Idle → s.inbox = .command cw :: rest → (∀ row ∈ opcodeTable, ¬ row.spells cw) →
    step s = .next { s with inbox := rest, trace := s.trace ++ [.command cw, .response .illegal] }

/-- With nothing presented the block waits, and nothing changes (R242). -/
def Obligations.BlockWaitsForTheHost : Prop :=
  ∀ s : State, s.inbox = [] → step s = .next s

/-- A transport call that never returns, at the operation's next transaction: the operation has no response and no
later transaction, the state does not change, and the block takes no command any more (R228). -/
def Obligations.StalledCallStallsTheBlock : Prop :=
  (∀ (i : Instr) (s : State) (us : List Turn) (offers : List (Byte × Byte)) (u : Turn) (rest : List Turn),
    s.script = us ++ u :: rest → us.map (·.verdict) = offers.map (fun o => .answer (.ok o.1 o.2)) →
    u.verdict = .never → us.length < fullCount i →
    (i = .initialise → ∀ o, offers[1]? = some o → o.1 = 0xE5#8) →
    ∃ (t : State) (c : BusCall) (done : List Event), exec i s = .next t ∧ Kept s t ∧ t.cachedRange = s.cachedRange ∧ t.script = rest ∧
      t.calls = s.calls + us.length + 1 ∧ t.seq.map (fun q => (q.instr, q.pos)) = some (i, us.length) ∧
      t.trace = s.trace ++ done ++ [Event.bus c none] ∧ done.length = us.length ∧ ∀ e ∈ done, e.answeredOk = true) ∧
  (∀ (t : State) (cw : CmdWord) (rest : List HostEvent), ¬ t.Idle → t.inbox = .command cw :: rest →
    step t = .next t)

/-- Every step goes on to a next state. That is the model's reading of R231: fault has no instance in the block; the
refusal at the decoder that R231 calls `illegal` is a response after which the run continues (log 12); and the stuck
block of a call that never answers is a state in which it waits (log 7). -/
def Obligations.EveryStepGoesOn : Prop :=
  ∀ s : State, ∃ t, step s = .next t

/-! ## What every operation does -/

/-- Every operation, in every state, goes on to a next state, in exactly one of three ways (R210, R220, R228, R241): it
ends with one response after transactions that were all answered; it waits at a transaction that is not answered; or
a reset abandoned it, with no response. The transactions never exceed those of its rule. -/
def Obligations.EveryOperationGoesOn : Prop :=
  ∀ (i : Instr) (s : State), ∃ (t : State) (done : List Event), exec i s = .next t ∧
    (∀ e ∈ done, ∃ (c : BusCall) (a : Answer), e = Event.bus c (some a)) ∧ done.length ≤ fullCount i ∧
    ((t.Idle ∧ t.calls = s.calls + done.length ∧ ∃ r : Response, t.trace = s.trace ++ done ++ [Event.response r]) ∨
     (¬ t.Idle ∧ t.seq.map (·.instr) = some i ∧ t.cachedRange = s.cachedRange ∧ t.busAddr = s.busAddr ∧
       t.calls = s.calls + done.length + 1 ∧ ∃ c : BusCall, t.trace = s.trace ++ done ++ [Event.bus c none]) ∨
     (¬ s.Undisturbed ∧ t.Idle ∧ ∃ waiting : List Event, (waiting = [] ∨ ∃ c : BusCall, waiting = [Event.bus c none]) ∧
       t.calls = s.calls + done.length + waiting.length ∧
       t.trace = s.trace ++ done ++ waiting ++ [Event.reset t.busAddr t.cachedRange]))

/-- A reset in mid-operation abandons it, wherever it lands: before a transaction, while one waits, or once one is
answered, the last one too. The two fields hold the reset's arguments, the block is idle, no response is produced, and
nothing is issued after (R241). -/
def Obligations.MidOperationResetAbandons : Prop :=
  ∀ (i : Instr) (s t : State) (seen : List Event) (addr : BusAddr) (range : Byte),
    exec i s = .next t → t.trace = s.trace ++ seen → Event.reset addr range ∈ seen →
    t.busAddr = addr ∧ t.cachedRange = range ∧ t.Idle ∧
    ∃ issued : List Event, seen = issued ++ [Event.reset addr range] ∧ ∀ e ∈ issued, e.isBus = true

/-- The first failure ends the operation: nothing is issued after it, `cached_range` is not written, and the response is
the signal unchanged (R213); in the identity read of initialize it is `ok(false)` (R214), and later in initialize what
`INIT_LATE_FAIL` says, by default the signal (R215). Or a reset comes after the failing answer and before the response,
which is then not produced: that a reset can land there is the model's reading of R241 (log 8). -/
def Obligations.FirstFailureEndsTheOperation : Prop :=
  ∀ (i : Instr) (s t : State) (seen : List Event) (c : BusCall) (sig : FailSig),
    exec i s = .next t → t.trace = s.trace ++ seen → Event.bus c (some (Answer.fail sig)) ∈ seen →
    t.Idle ∧ ∃ (done : List Event) (last : Event),
      seen = done ++ [Event.bus c (some (Answer.fail sig)), last] ∧ (∀ e ∈ done, e.answeredOk = true) ∧
      (last = Event.reset t.busAddr t.cachedRange ∧ ¬ s.Undisturbed ∨
       t.cachedRange = s.cachedRange ∧ t.busAddr = s.busAddr ∧ ∃ r : Response, last = Event.response r ∧
        (i ≠ .initialise → r = .fail sig) ∧
        (i = .initialise → done.length < 2 → r = .ok (.bool false)) ∧
        (i = .initialise → 2 ≤ done.length → s.lateFail = .propagate → r = .fail sig) ∧
        (i = .initialise → 2 ≤ done.length → s.lateFail = .reportFalse → r = .ok (.bool false)))

/-- No operation writes `bus_addr`, the strap or the host's coming events, in any environment without a reset in
mid-operation (R21, R220). -/
def Obligations.OperationsKeepBusAddr : Prop :=
  ∀ (i : Instr) (s t : State), s.Undisturbed → exec i s = .next t → Kept s t

/-- `cached_range` is written by a setRange that completes, with its whole operand, and by no other operation and on no
other path (R22, R150). -/
def Obligations.OnlySetRangeWritesTheCache : Prop :=
  ∀ (i : Instr) (s t : State), s.Undisturbed → exec i s = .next t →
    (∀ range, i = .setRange range →
      t.cachedRange = if .response (.ok .unit) ∈ t.trace.drop s.trace.length then range else s.cachedRange) ∧
    ((∀ range, i ≠ .setRange range) → t.cachedRange = s.cachedRange)

/-- Every transaction of an operation goes to the state's bus address, zero-extended, and every read directly follows a
select frame answered `ok` (R65, R106, R107). -/
def Obligations.TransactionShapes : Prop :=
  ∀ (i : Instr) (s t : State) (seen : List Event), exec i s = .next t → t.trace = s.trace ++ seen →
    (∀ (c : BusCall) (a : Option Answer), Event.bus c a ∈ seen → c.bus = s.busAddr.setWidth 8 ∧ c.bus.getLsbD 7 = false) ∧
    (∀ (before after : List Event) (bus : Byte) (n : ReadLen) (a : Option Answer),
      seen = before ++ Event.bus (.read bus n) a :: after →
      ∃ (before' : List Event) (addr : Byte),
        before = before' ++ [Event.bus (.write bus (.one addr)) (some (Answer.ok []))])

/-- The exact number of transactions of each operation when none fails: 6, or 2 on an identity mismatch, for
initialize; 3 for setRange; 1 for setDataRate and writeRegister; 2 for the others (R254). -/
def Obligations.TransactionCounts : Prop :=
  ∀ (i : Instr) (s t : State) (bus : List Event) (r : Response), exec i s = .next t →
    t.trace = s.trace ++ bus ++ [.response r] → (∀ e ∈ bus, e.answeredOk = true) →
    bus.length = (match i with
      | .initialise => if r = .ok (.bool true) then 6 else 2
      | .setRange _ => 3
      | .setDataRate _ => 1
      | .writeRegister _ _ => 1
      | _ => 2)

/-- The result of every operation has the type R12 gives it, and a signed result is in range; `illegal` is never the
response of an operation. -/
def Obligations.ResultTypes : Prop :=
  ∀ (i : Instr) (s t : State) (r : Response), exec i s = .next t →
    .response r ∈ t.trace.drop s.trace.length →
    r ≠ .illegal ∧ ∀ v, r = .ok v → v.kind = i.resultKind ∧ ∀ n, v = .int16 n → -32768 ≤ n ∧ n ≤ 32767

/-- The identity check gates every later transaction of initialize: a transaction other than the two of the identity
read is issued only after that read returned 0xE5 (R141). -/
def Obligations.IdentityGatesInitialize : Prop :=
  ∀ (s t : State) (before after : List Event) (c : BusCall) (a : Option Answer),
    exec .initialise s = .next t → t.trace = s.trace ++ before ++ .bus c a :: after →
    2 ≤ before.length ∨ (∃ bus p, c = .write bus p ∧ p ≠ .one 0x00#8) →
    ∃ later, before = [s.select 0x00#8 (.ok []), s.read1 (.ok [0xE5#8])] ++ later

/-- The sequencer reading of R24, run from the first position, does what the operation's own rule says, in every
state and every environment: same transactions, same response, same state. -/
def Obligations.SequencerRefinesEveryOperation : Prop :=
  ∀ (i : Instr) (s : State), exec i s = .next (runSequencer (fullCount i) (s.start i))

/-! ## Invariants of the step -/

/-- The state agrees with its events, and every step keeps that: `bus_addr` is the last reset's, `cached_range` is the
last reset's range or the operand of the last setRange that completed with `ok` since, and the sequencer works on the
command that has no response yet (R21, R23, R24). -/
def Obligations.StepKeepsHistory : Prop :=
  ∀ s t : State, s.MatchesHistory → step s = .next t → t.MatchesHistory

/-- Every step keeps the transaction shapes of the whole run: each read right after its select frame, each bus address
byte with bit 7 zero (R106, R107). -/
def Obligations.StepKeepsTransactionShapes : Prop :=
  ∀ s t : State, ReadsFollowSelect s.trace → CarriesBusAddr s.trace → step s = .next t →
    ReadsFollowSelect t.trace ∧ CarriesBusAddr t.trace

/-- Every step keeps the register contents in canonical form, whatever other agents do, and the sequencer at a
transaction its operation has (R82, R24). -/
def Obligations.StepKeepsMemoryForm : Prop :=
  ∀ s t : State, s.memoryWf → s.SeqLegal → step s = .next t → t.memoryWf ∧ t.SeqLegal

/-- The ghost lifecycle (R26): when an idle block that agrees with its events takes an initialize command, one that
responds `ok(true)` leaves the block configured with `cached_range`; one that responds `ok(false)` or fails leaves the
lifecycle as it was. That the lifecycle is computed from the events, and the rate it shows, are the model's reading
(log 20). -/
def Obligations.LifecycleOfInitialize : Prop :=
  ∀ (s t : State) (rest : List HostEvent) (seen : List Event) (r : Response), s.Idle → s.MatchesHistory →
    s.inbox = .command 0x010000#24 :: rest → step s = .next t →
    t.trace = s.trace ++ .command 0x010000#24 :: seen ++ [.response r] →
    (r = .ok (.bool true) →
      (historyOf t.trace).lifecycle = .configured t.cachedRange (historyOf s.trace).rate) ∧
    (r ≠ .ok (.bool true) → (historyOf t.trace).lifecycle = (historyOf s.trace).lifecycle)

/-! ## The operations, one by one -/

/-- initialize, when nothing fails and the identity matches: six transactions in order, POWER_CTL with 0x08, then
DATA_FORMAT with the composed byte, and `ok(true)`; the cache keeps its value (R140). -/
def Obligations.InitializeConfiguresTheSensor : Prop :=
  decode (0x01#8 ++ 0x00#8 ++ 0x00#8) = some .initialise ∧
  ∀ (s : State) (us rest : List Turn) (x0 y0 y1 x2 y2 x3 y3 old y4 x5 y5 : Byte),
    s.Hears us [.ok x0 y0, .ok 0xE5#8 y1, .ok x2 y2, .ok x3 y3, .ok old y4, .ok x5 y5] rest →
    ∃ t, exec .initialise s = .next t ∧
      Result s t us rest
        [s.select 0x00#8 (.ok []), s.read1 (.ok [0xE5#8]), s.frame 0x2D#8 0x08#8 (.ok []),
         s.select 0x31#8 (.ok []), s.read1 (.ok [old]),
         s.frame 0x31#8 ((old &&& 0xF0#8) ||| s.cachedRange ||| 0x08#8) (.ok [])]
        (.ok (.bool true)) s.cachedRange

/-- initialize, when the identity byte is any other, or either transaction of the identity read fails: `ok(false)`, the
signal dropped, and nothing further issued (R140, R212, R214). -/
def Obligations.InitializeReportsNotThisDevice : Prop :=
  (∀ (s : State) (us rest : List Turn) (x0 y0 id y1 : Byte),
    s.Hears us [.ok x0 y0, .ok id y1] rest → id ≠ 0xE5#8 →
    ∃ t, exec .initialise s = .next t ∧
      Result s t us rest [s.select 0x00#8 (.ok []), s.read1 (.ok [id])] (.ok (.bool false)) s.cachedRange) ∧
  (∀ (s : State) (us rest : List Turn) (sig : FailSig),
    s.Hears us [.fail sig] rest →
    ∃ t, exec .initialise s = .next t ∧
      Result s t us rest [s.select 0x00#8 (.fail sig)] (.ok (.bool false)) s.cachedRange) ∧
  (∀ (s : State) (us rest : List Turn) (x0 y0 : Byte) (sig : FailSig),
    s.Hears us [.ok x0 y0, .fail sig] rest →
    ∃ t, exec .initialise s = .next t ∧
      Result s t us rest [s.select 0x00#8 (.ok []), s.read1 (.fail sig)] (.ok (.bool false)) s.cachedRange)

/-- initialize, when a transaction after the identity read fails: it ends there, and responds with the signal by
default, or with `ok(false)` where the strap says so (R215). -/
def Obligations.InitializeLateFailure : Prop :=
  ∀ (s : State) (us rest : List Turn) (x0 y0 y1 : Byte) (sig : FailSig) (r : Response),
    r = (match s.lateFail with
      | .propagate => .fail sig
      | .reportFalse => .ok (.bool false)) →
    (s.Hears us [.ok x0 y0, .ok 0xE5#8 y1, .fail sig] rest →
      ∃ t, exec .initialise s = .next t ∧
        Result s t us rest
          [s.select 0x00#8 (.ok []), s.read1 (.ok [0xE5#8]), s.frame 0x2D#8 0x08#8 (.fail sig)] r s.cachedRange) ∧
    (∀ x2 y2 : Byte, s.Hears us [.ok x0 y0, .ok 0xE5#8 y1, .ok x2 y2, .fail sig] rest →
      ∃ t, exec .initialise s = .next t ∧
        Result s t us rest
          [s.select 0x00#8 (.ok []), s.read1 (.ok [0xE5#8]), s.frame 0x2D#8 0x08#8 (.ok []),
           s.select 0x31#8 (.fail sig)] r s.cachedRange) ∧
    (∀ x2 y2 x3 y3 : Byte, s.Hears us [.ok x0 y0, .ok 0xE5#8 y1, .ok x2 y2, .ok x3 y3, .fail sig] rest →
      ∃ t, exec .initialise s = .next t ∧
        Result s t us rest
          [s.select 0x00#8 (.ok []), s.read1 (.ok [0xE5#8]), s.frame 0x2D#8 0x08#8 (.ok []),
           s.select 0x31#8 (.ok []), s.read1 (.fail sig)] r s.cachedRange) ∧
    (∀ x2 y2 x3 y3 old y4 : Byte,
      s.Hears us [.ok x0 y0, .ok 0xE5#8 y1, .ok x2 y2, .ok x3 y3, .ok old y4, .fail sig] rest →
      ∃ t, exec .initialise s = .next t ∧
        Result s t us rest
          [s.select 0x00#8 (.ok []), s.read1 (.ok [0xE5#8]), s.frame 0x2D#8 0x08#8 (.ok []),
           s.select 0x31#8 (.ok []), s.read1 (.ok [old]),
           s.frame 0x31#8 ((old &&& 0xF0#8) ||| s.cachedRange ||| 0x08#8) (.fail sig)] r s.cachedRange)

/-- setRange: three transactions, the composed byte, the whole operand into the cache only when all three answered
`ok`; a failure at any of the three ends it there, the cache unchanged (R150). -/
def Obligations.SetRangeRewritesDataFormat : Prop :=
  ∀ (s : State) (us rest : List Turn) (range : Byte),
    decode (0x02#8 ++ range ++ 0x00#8) = some (.setRange range) ∧
    (∀ x0 y0 old y1 x2 y2 : Byte, s.Hears us [.ok x0 y0, .ok old y1, .ok x2 y2] rest →
      ∃ t, exec (.setRange range) s = .next t ∧
        Result s t us rest
          [s.select 0x31#8 (.ok []), s.read1 (.ok [old]),
           s.frame 0x31#8 ((old &&& 0xF0#8) ||| range ||| 0x08#8) (.ok [])] (.ok .unit) range) ∧
    (∀ sig : FailSig, s.Hears us [.fail sig] rest →
      ∃ t, exec (.setRange range) s = .next t ∧
        Result s t us rest [s.select 0x31#8 (.fail sig)] (.fail sig) s.cachedRange) ∧
    (∀ (x0 y0 : Byte) (sig : FailSig), s.Hears us [.ok x0 y0, .fail sig] rest →
      ∃ t, exec (.setRange range) s = .next t ∧
        Result s t us rest [s.select 0x31#8 (.ok []), s.read1 (.fail sig)] (.fail sig) s.cachedRange) ∧
    (∀ (x0 y0 old y1 : Byte) (sig : FailSig), s.Hears us [.ok x0 y0, .ok old y1, .fail sig] rest →
      ∃ t, exec (.setRange range) s = .next t ∧
        Result s t us rest
          [s.select 0x31#8 (.ok []), s.read1 (.ok [old]),
           s.frame 0x31#8 ((old &&& 0xF0#8) ||| range ||| 0x08#8) (.fail sig)] (.fail sig) s.cachedRange)

/-- The four operations that read one register and respond with its byte or a part of it: getRange from 0x31 with its
low two bits, getDataRate from 0x2C with its low four bits, readRegister from its operand, getDeviceID from 0x00; each
with the byte it read, in every case of failure the signal (R151, R161, R170, R200). -/
def Obligations.ByteReadsSelectThenRead : Prop :=
  decode (0x03#8 ++ 0x00#8 ++ 0x00#8) = some .getRange ∧ decode (0x05#8 ++ 0x00#8 ++ 0x00#8) = some .getDataRate ∧
  (∀ addr : Byte, decode (0x06#8 ++ addr ++ 0x00#8) = some (.readRegister addr)) ∧
  decode (0x0C#8 ++ 0x00#8 ++ 0x00#8) = some .getDeviceID ∧
  ∀ (s : State) (us rest : List Turn) (i : Instr) (addr : Byte) (f : Byte → Value),
    ((i = .getRange ∧ addr = 0x31#8 ∧ f = fun v => .code2 (v.extractLsb' 0 2)) ∨
     (i = .getDataRate ∧ addr = 0x2C#8 ∧ f = fun v => .code4 (v.extractLsb' 0 4)) ∨
     (i = .readRegister addr ∧ f = .byte) ∨
     (i = .getDeviceID ∧ addr = 0x00#8 ∧ f = .byte)) →
    (∀ x0 y0 v y1 : Byte, s.Hears us [.ok x0 y0, .ok v y1] rest →
      ∃ t, exec i s = .next t ∧
        Result s t us rest [s.select addr (.ok []), s.read1 (.ok [v])] (.ok (f v)) s.cachedRange) ∧
    (∀ sig : FailSig, s.Hears us [.fail sig] rest →
      ∃ t, exec i s = .next t ∧ Result s t us rest [s.select addr (.fail sig)] (.fail sig) s.cachedRange) ∧
    (∀ (x0 y0 : Byte) (sig : FailSig), s.Hears us [.ok x0 y0, .fail sig] rest →
      ∃ t, exec i s = .next t ∧
        Result s t us rest [s.select addr (.ok []), s.read1 (.fail sig)] (.fail sig) s.cachedRange)

/-- setDataRate writes its operand, unmasked, over the whole of BW_RATE, in one transaction (R160, R111). -/
def Obligations.SetDataRateOverwritesBwRate : Prop :=
  ∀ (s : State) (us rest : List Turn) (rate : Byte),
    decode (0x04#8 ++ rate ++ 0x00#8) = some (.setDataRate rate) ∧
    (∀ x0 y0 : Byte, s.Hears us [.ok x0 y0] rest →
      ∃ t, exec (.setDataRate rate) s = .next t ∧
        Result s t us rest [s.frame 0x2C#8 rate (.ok [])] (.ok .unit) s.cachedRange) ∧
    (∀ sig : FailSig, s.Hears us [.fail sig] rest →
      ∃ t, exec (.setDataRate rate) s = .next t ∧
        Result s t us rest [s.frame 0x2C#8 rate (.fail sig)] (.fail sig) s.cachedRange)

/-- writeRegister sends `{addr, value}` as one write, for every address and value; the cache is not touched (R171). -/
def Obligations.WriteRegisterSendsOneFrame : Prop :=
  ∀ (s : State) (us rest : List Turn) (addr value : Byte),
    decode (0x07#8 ++ addr ++ value) = some (.writeRegister addr value) ∧
    (∀ x0 y0 : Byte, s.Hears us [.ok x0 y0] rest →
      ∃ t, exec (.writeRegister addr value) s = .next t ∧
        Result s t us rest [s.frame addr value (.ok [])] (.ok .unit) s.cachedRange) ∧
    (∀ sig : FailSig, s.Hears us [.fail sig] rest →
      ∃ t, exec (.writeRegister addr value) s = .next t ∧
        Result s t us rest [s.frame addr value (.fail sig)] (.fail sig) s.cachedRange)

/-- The four operations that read a word: readRegisterWord at its operand, for every address, and getX, getY, getZ at
0x32, 0x34, 0x36; one select frame, one 2-byte read, the signed little-endian value; a failure gives the signal (R172,
R190, R191, R192). -/
def Obligations.WordReadsSelectThenReadTwo : Prop :=
  (∀ addr : Byte, decode (0x08#8 ++ addr ++ 0x00#8) = some (.readRegisterWord addr)) ∧
  decode (0x09#8 ++ 0x00#8 ++ 0x00#8) = some .getX ∧ decode (0x0A#8 ++ 0x00#8 ++ 0x00#8) = some .getY ∧
  decode (0x0B#8 ++ 0x00#8 ++ 0x00#8) = some .getZ ∧
  ∀ (s : State) (us rest : List Turn) (i : Instr) (addr : Byte),
    (i = .readRegisterWord addr ∨ (i = .getX ∧ addr = 0x32#8) ∨ (i = .getY ∧ addr = 0x34#8) ∨
      (i = .getZ ∧ addr = 0x36#8)) →
    (∀ x0 y0 b0 b1 : Byte, s.Hears us [.ok x0 y0, .ok b0 b1] rest →
      ∃ t, exec i s = .next t ∧
        Result s t us rest [s.select addr (.ok []), s.read2 (.ok [b0, b1])]
          (.ok (.int16 (BitVec.toInt (b1 ++ b0)))) s.cachedRange) ∧
    (∀ sig : FailSig, s.Hears us [.fail sig] rest →
      ∃ t, exec i s = .next t ∧ Result s t us rest [s.select addr (.fail sig)] (.fail sig) s.cachedRange) ∧
    (∀ (x0 y0 : Byte) (sig : FailSig), s.Hears us [.ok x0 y0, .fail sig] rest →
      ∃ t, exec i s = .next t ∧
        Result s t us rest [s.select addr (.ok []), s.read2 (.fail sig)] (.fail sig) s.cachedRange)

/-- The five aliases do what their expansions do, in every environment: same transactions, response and state, but for
the operation a busy sequencer is at (R117). -/
def Obligations.AliasesExpand : Prop :=
  ∀ (s : State) (i j : Instr),
    ((i = .getDeviceID ∧ j = .readRegister 0x00#8) ∨ (i = .getX ∧ j = .readRegisterWord 0x32#8) ∨
     (i = .getY ∧ j = .readRegisterWord 0x34#8) ∨ (i = .getZ ∧ j = .readRegisterWord 0x36#8) ∨
     (∃ rate, i = .setDataRate rate ∧ j = .writeRegister 0x2C#8 rate)) →
    ∃ t u, exec i s = .next t ∧ exec j s = .next u ∧ t.forgetInstr = u.forgetInstr

/-! ## What an operation depends on -/

/-- The block is a function of its own state, the operation and the transport's answers (R80): two states that agree on
the block's fields, the events and a script that answers every transaction end alike, whatever device is attached. -/
def Obligations.AnswersDecideTheOperation : Prop :=
  ∀ (i : Instr) (s s' t t' : State),
    s'.busAddr = s.busAddr → s'.cachedRange = s.cachedRange → s'.lateFail = s.lateFail → s'.trace = s.trace →
    s'.script = s.script → (∀ u ∈ s.script, u.fixed = true) → 6 ≤ s.script.length →
    exec i s = .next t → exec i s' = .next t' → SameSeen t t'

/-- Scripts leave no environment out (R80): whatever answers an operation in a state, a reference device, the free value
or a script, some script alone makes the block do and show the same. -/
def Obligations.ScriptsCoverEveryEnvironment : Prop :=
  ∀ (i : Instr) (s : State), ∃ (script : List Turn) (t t' : State),
    (∀ u ∈ script, u.fixed = true ∧ u.others = []) ∧ script.length ≤ fullCount i ∧
    exec i s = .next t ∧ exec i { s with script := script, device := none } = .next t' ∧ SameSeen t t'

/-- `cached_range` is read by initialize alone: for every other operation its value makes no difference to the
transactions or the response (R22, R151). -/
def Obligations.CacheIsReadByInitializeAlone : Prop :=
  ∀ (i : Instr) (s : State) (range : Byte), i ≠ .initialise →
    ∃ t t', exec i s = .next t ∧ exec i { s with cachedRange := range } = .next t' ∧
      t'.trace = t.trace ∧ t'.seq = t.seq ∧ t'.device = t.device ∧ t'.busAddr = t.busAddr

/-- No operation is gated by what happened before (R26, R223, R244): with any other past, an operation adds the same
events and leaves the same state. -/
def Obligations.ThePastGatesNothing : Prop :=
  ∀ (i : Instr) (s : State) (past : List Event),
    ∃ t seen, exec i s = .next t ∧ t.trace = s.trace ++ seen ∧
      exec i { s with trace := past } = .next { t with trace := past ++ seen }

/-- The block never inspects a failure signal (R8, R12): renaming every signal in the environment and the events before
an operation is renaming them after. Where the free value would answer there is nothing to rename, so a device or a
script long enough is assumed. -/
def Obligations.SignalsAreOnlyPassedOn : Prop :=
  ∀ (f : FailSig → FailSig) (i : Instr) (s t : State),
    (s.device ≠ none ∨ ((∀ u ∈ s.script, u.fixed = true) ∧ 6 ≤ s.script.length)) →
    exec i s = .next t → exec i (s.rename f) = .next (t.rename f)

/-! ## With the reference device (a fixture, not the sensor: R82) -/

/-- Reads return the cells they name and change no cell; the pointer is left at the address selected (R82, R66). -/
def Obligations.DeviceReadsReturnTheCells : Prop :=
  ∀ (s : State) (d : RefDevice) (addr : Byte), s.AloneWith d →
    (∃ t, exec (.readRegister addr) s = .next t ∧
      DeviceResult s t { d with ptr := addr } [s.select addr (.ok []), s.read1 (.ok [d.read addr])]
        (.ok (.byte (d.read addr))) s.cachedRange) ∧
    (∃ t, exec (.readRegisterWord addr) s = .next t ∧
      DeviceResult s t { d with ptr := addr }
        [s.select addr (.ok []), s.read2 (.ok [d.read addr, d.read (addr + 1)])]
        (.ok (.int16 (le16s (d.read addr) (d.read (addr + 1))))) s.cachedRange) ∧
    (∃ t, exec .getDeviceID s = .next t ∧
      DeviceResult s t { d with ptr := 0x00#8 } [s.select 0x00#8 (.ok []), s.read1 (.ok [d.read 0x00#8])]
        (.ok (.byte (d.read 0x00#8))) s.cachedRange)

/-- Each axis operation returns its own pair: X from 0x32 and 0x33, Y from 0x34 and 0x35, never the X pair, Z from 0x36
and 0x37; no cell changes (R190 to R192, R252). -/
def Obligations.DeviceAxesReadTheirOwnPairs : Prop :=
  ∀ (s : State) (d : RefDevice) (i : Instr) (low high : Byte), s.AloneWith d →
    ((i = .getX ∧ low = 0x32#8 ∧ high = 0x33#8) ∨ (i = .getY ∧ low = 0x34#8 ∧ high = 0x35#8) ∨
      (i = .getZ ∧ low = 0x36#8 ∧ high = 0x37#8)) →
    ∃ t, exec i s = .next t ∧
      DeviceResult s t { d with ptr := low } [s.select low (.ok []), s.read2 (.ok [d.read low, d.read high])]
        (.ok (.int16 (le16s (d.read low) (d.read high)))) s.cachedRange

/-- A register write stores its byte in the one cell it names and in no other; setDataRate in 0x2C; the pointer is left
there (R82, R64, R160). -/
def Obligations.DeviceWritesStoreOneCell : Prop :=
  ∀ (s : State) (d : RefDevice) (i : Instr) (addr v : Byte), s.AloneWith d → d.cells.wf →
    (i = .writeRegister addr v ∨ (i = .setDataRate v ∧ addr = 0x2C#8)) →
    ∃ t e, exec i s = .next t ∧ DeviceResult s t e [s.frame addr v (.ok [])] (.ok .unit) s.cachedRange ∧
      e.read addr = v ∧ d.SameBut e addr ∧ e.ptr = addr ∧ e.devAddr = d.devAddr

/-- setRange then getRange returns the range for every legal code, the full-resolution bit is set whatever it was, bits
7:4 of DATA_FORMAT survive, and no other cell changes (R83 (a), (b)). -/
def Obligations.DeviceRangeRoundTrip : Prop :=
  ∀ (s : State) (d : RefDevice) (r : Byte), s.AloneWith d → d.cells.wf → r.toNat ≤ 3 →
    ∃ t e u, exec (.setRange r) s = .next t ∧ t.AloneWith e ∧ t.cachedRange = r ∧
      e.read 0x31#8 &&& 0x08#8 = 0x08#8 ∧ (e.read 0x31#8).extractLsb' 4 4 = (d.read 0x31#8).extractLsb' 4 4 ∧
      d.SameBut e 0x31#8 ∧
      exec .getRange t = .next u ∧ u.trace.getLast? = some (.response (.ok (.code2 (r.extractLsb' 0 2))))

/-- setDataRate then getDataRate returns the code for every legal code, and bits 7:4 of BW_RATE are zero after; for any
operand the low four bits come back (R83 (c), R115). -/
def Obligations.DeviceRateRoundTrip : Prop :=
  ∀ (s : State) (d : RefDevice) (c : Byte), s.AloneWith d → d.cells.wf →
    ∃ t e u, exec (.setDataRate c) s = .next t ∧ t.AloneWith e ∧ d.SameBut e 0x2C#8 ∧
      (c.toNat ≤ 15 → (e.read 0x2C#8).extractLsb' 4 4 = 0#4) ∧
      exec .getDataRate t = .next u ∧ u.trace.getLast? = some (.response (.ok (.code4 (c.extractLsb' 0 4))))

/-- initialize with a simulated identity register: any value but 0xE5 gives false and writes no cell; 0xE5 gives true,
writes 0x08 to POWER_CTL and the configured range to DATA_FORMAT, and no other cell (R83 (d), (e)). -/
def Obligations.DeviceInitialize : Prop :=
  ∀ (s : State) (d : RefDevice), s.AloneWith d → d.cells.wf →
    ∃ t e, exec .initialise s = .next t ∧ t.device = some e ∧ t.Idle ∧ t.cachedRange = s.cachedRange ∧
      (d.read 0x00#8 ≠ 0xE5#8 → e.cells = d.cells ∧ t.trace.getLast? = some (.response (.ok (.bool false)))) ∧
      (d.read 0x00#8 = 0xE5#8 → t.trace.getLast? = some (.response (.ok (.bool true))) ∧
        e.read 0x2D#8 = 0x08#8 ∧
        e.read 0x31#8 = (d.read 0x31#8 &&& 0xF0#8) ||| s.cachedRange ||| 0x08#8 ∧
        ∀ b, b ≠ 0x2D#8 → b ≠ 0x31#8 → e.read b = d.read b)

/-- At another bus address nobody answers: the first transaction fails with the bus's signal and the device does not
change; initialize reports `ok(false)`, every other operation the signal (R82, R213, R214). -/
def Obligations.DeviceElsewhereIsSilent : Prop :=
  ∀ (s : State) (d : RefDevice) (i : Instr), s.script = [] → s.device = some d → d.devAddr ≠ s.busAddr →
    ∃ t c, exec i s = .next t ∧
      DeviceResult s t d [.bus c (some (.fail d.silence))]
        (if i = .initialise then .ok (.bool false) else .fail d.silence) s.cachedRange

/-- The select-then-read hazard: another master's select between the two transactions makes the block return that
master's register as the one asked for, with status `ok` and no trace of it (R246, R73). -/
def Obligations.InterleavedSelectCorruptsARead : Prop :=
  ∀ (s : State) (d : RefDevice) (addr other : Byte),
    s.script = [⟨[], .behind⟩, ⟨[.point other], .behind⟩] → s.device = some d → d.devAddr = s.busAddr →
    ∃ t, exec (.readRegister addr) s = .next t ∧
      DeviceResult s t { d with ptr := other } [s.select addr (.ok []), s.read1 (.ok [d.read other])]
        (.ok (.byte (d.read other))) s.cachedRange

/-- A failed write frame may have taken effect in the sensor or not: both are behaviours of the model, with the same
events and the same block state (R229, D23). The failing transaction itself never stores the byte here: that it landed
is shown by another act on the device in the same turn, the model's way of showing it (log 15). -/
def Obligations.FailedWriteMayHaveLanded : Prop :=
  ∀ (s : State) (d : RefDevice) (addr v : Byte) (sig : FailSig), s.device = some d →
    ∃ t u, exec (.writeRegister addr v) { s with script := [⟨[], .answer (.fail sig)⟩] } = .next t ∧
      exec (.writeRegister addr v) { s with script := [⟨[.poke addr v], .answer (.fail sig)⟩] } = .next u ∧
      t.device = some d ∧ u.device = some (d.write addr v) ∧ SameSeen t u ∧
      t.trace = s.trace ++ [s.frame addr v (.fail sig), .response (.fail sig)]
end

