-- ==== Sys2Proof/Laws/State.lean ====
section
/-! SUPPORT. One lemma per field per update of the state, so that no proof unfolds a record update. -/

namespace Sys2Proof.Machine

variable (s : State)

/-! ### `observe` -/

@[simp] theorem State.observe_busAddr (e : Event) : (s.observe e).busAddr = s.busAddr := rfl
@[simp] theorem State.observe_cachedRange (e : Event) : (s.observe e).cachedRange = s.cachedRange := rfl
@[simp] theorem State.observe_seq (e : Event) : (s.observe e).seq = s.seq := rfl
@[simp] theorem State.observe_lateFail (e : Event) : (s.observe e).lateFail = s.lateFail := rfl
@[simp] theorem State.observe_device (e : Event) : (s.observe e).device = s.device := rfl
@[simp] theorem State.observe_script (e : Event) : (s.observe e).script = s.script := rfl
@[simp] theorem State.observe_inbox (e : Event) : (s.observe e).inbox = s.inbox := rfl
@[simp] theorem State.observe_calls (e : Event) : (s.observe e).calls = s.calls := rfl
@[simp] theorem State.observe_trace (e : Event) : (s.observe e).trace = s.trace ++ [e] := rfl

/-! ### `setCachedRange` -/

@[simp] theorem State.setCachedRange_busAddr (range : Byte) : (s.setCachedRange range).busAddr = s.busAddr := rfl
@[simp] theorem State.setCachedRange_cachedRange (range : Byte) : (s.setCachedRange range).cachedRange = range := rfl
@[simp] theorem State.setCachedRange_seq (range : Byte) : (s.setCachedRange range).seq = s.seq := rfl
@[simp] theorem State.setCachedRange_lateFail (range : Byte) : (s.setCachedRange range).lateFail = s.lateFail := rfl
@[simp] theorem State.setCachedRange_device (range : Byte) : (s.setCachedRange range).device = s.device := rfl
@[simp] theorem State.setCachedRange_script (range : Byte) : (s.setCachedRange range).script = s.script := rfl
@[simp] theorem State.setCachedRange_inbox (range : Byte) : (s.setCachedRange range).inbox = s.inbox := rfl
@[simp] theorem State.setCachedRange_calls (range : Byte) : (s.setCachedRange range).calls = s.calls := rfl
@[simp] theorem State.setCachedRange_trace (range : Byte) : (s.setCachedRange range).trace = s.trace := rfl

/-! ### `hostReset` -/

@[simp] theorem State.hostReset_busAddr (addr : BusAddr) (range : Byte) : (s.hostReset addr range).busAddr = addr := rfl
@[simp] theorem State.hostReset_cachedRange (addr : BusAddr) (range : Byte) : (s.hostReset addr range).cachedRange = range := rfl
@[simp] theorem State.hostReset_seq (addr : BusAddr) (range : Byte) : (s.hostReset addr range).seq = none := rfl
@[simp] theorem State.hostReset_lateFail (addr : BusAddr) (range : Byte) : (s.hostReset addr range).lateFail = s.lateFail := rfl
@[simp] theorem State.hostReset_device (addr : BusAddr) (range : Byte) : (s.hostReset addr range).device = s.device := rfl
@[simp] theorem State.hostReset_script (addr : BusAddr) (range : Byte) : (s.hostReset addr range).script = s.script := rfl
@[simp] theorem State.hostReset_inbox (addr : BusAddr) (range : Byte) : (s.hostReset addr range).inbox = s.inbox := rfl
@[simp] theorem State.hostReset_calls (addr : BusAddr) (range : Byte) : (s.hostReset addr range).calls = s.calls := rfl
@[simp] theorem State.hostReset_trace (addr : BusAddr) (range : Byte) : (s.hostReset addr range).trace = s.trace ++ [.reset addr range] := rfl

/-! ### `start` -/

@[simp] theorem State.start_busAddr (i : Instr) : (s.start i).busAddr = s.busAddr := rfl
@[simp] theorem State.start_cachedRange (i : Instr) : (s.start i).cachedRange = s.cachedRange := rfl
@[simp] theorem State.start_seq (i : Instr) : (s.start i).seq = some ⟨i, 0, 0x00#8⟩ := rfl
@[simp] theorem State.start_lateFail (i : Instr) : (s.start i).lateFail = s.lateFail := rfl
@[simp] theorem State.start_device (i : Instr) : (s.start i).device = s.device := rfl
@[simp] theorem State.start_script (i : Instr) : (s.start i).script = s.script := rfl
@[simp] theorem State.start_inbox (i : Instr) : (s.start i).inbox = s.inbox := rfl
@[simp] theorem State.start_calls (i : Instr) : (s.start i).calls = s.calls := rfl
@[simp] theorem State.start_trace (i : Instr) : (s.start i).trace = s.trace := rfl

/-! ### `respond` -/

@[simp] theorem State.respond_busAddr (r : Response) : (s.respond r).busAddr = s.busAddr := rfl
@[simp] theorem State.respond_cachedRange (r : Response) : (s.respond r).cachedRange = s.cachedRange := rfl
@[simp] theorem State.respond_seq (r : Response) : (s.respond r).seq = none := rfl
@[simp] theorem State.respond_lateFail (r : Response) : (s.respond r).lateFail = s.lateFail := rfl
@[simp] theorem State.respond_device (r : Response) : (s.respond r).device = s.device := rfl
@[simp] theorem State.respond_script (r : Response) : (s.respond r).script = s.script := rfl
@[simp] theorem State.respond_inbox (r : Response) : (s.respond r).inbox = s.inbox := rfl
@[simp] theorem State.respond_calls (r : Response) : (s.respond r).calls = s.calls := rfl
@[simp] theorem State.respond_trace (r : Response) : (s.respond r).trace = s.trace ++ [.response r] := rfl

/-! ### `takeTurn` -/

@[simp] theorem State.takeTurn_busAddr : (s.takeTurn).busAddr = s.busAddr := rfl
@[simp] theorem State.takeTurn_cachedRange : (s.takeTurn).cachedRange = s.cachedRange := rfl
@[simp] theorem State.takeTurn_seq : (s.takeTurn).seq = s.seq := rfl
@[simp] theorem State.takeTurn_lateFail : (s.takeTurn).lateFail = s.lateFail := rfl
@[simp] theorem State.takeTurn_device : (s.takeTurn).device = s.device.map fun d => d.acts s.turn.others := rfl
@[simp] theorem State.takeTurn_script : (s.takeTurn).script = s.script.tail := rfl
@[simp] theorem State.takeTurn_inbox : (s.takeTurn).inbox = s.inbox := rfl
@[simp] theorem State.takeTurn_calls : (s.takeTurn).calls = s.calls := rfl
@[simp] theorem State.takeTurn_trace : (s.takeTurn).trace = s.trace := rfl

/-! ### `issue` -/

@[simp] theorem State.issue_busAddr (c : BusCall) (a : Option Answer) : (s.issue c a).busAddr = s.busAddr := rfl
@[simp] theorem State.issue_cachedRange (c : BusCall) (a : Option Answer) : (s.issue c a).cachedRange = s.cachedRange := rfl
@[simp] theorem State.issue_seq (c : BusCall) (a : Option Answer) : (s.issue c a).seq = s.seq := rfl
@[simp] theorem State.issue_lateFail (c : BusCall) (a : Option Answer) : (s.issue c a).lateFail = s.lateFail := rfl
@[simp] theorem State.issue_device (c : BusCall) (a : Option Answer) : (s.issue c a).device = s.device := rfl
@[simp] theorem State.issue_script (c : BusCall) (a : Option Answer) : (s.issue c a).script = s.script := rfl
@[simp] theorem State.issue_inbox (c : BusCall) (a : Option Answer) : (s.issue c a).inbox = s.inbox := rfl
@[simp] theorem State.issue_calls (c : BusCall) (a : Option Answer) : (s.issue c a).calls = s.calls + 1 := rfl
@[simp] theorem State.issue_trace (c : BusCall) (a : Option Answer) : (s.issue c a).trace = s.trace ++ [.bus c a] := rfl

/-! ### `advance` -/

@[simp] theorem State.advance_busAddr (c : BusCall) (b0 : Byte) : (s.advance c b0).busAddr = s.busAddr := rfl
@[simp] theorem State.advance_cachedRange (c : BusCall) (b0 : Byte) : (s.advance c b0).cachedRange = s.cachedRange := rfl
@[simp] theorem State.advance_seq (c : BusCall) (b0 : Byte) : (s.advance c b0).seq = s.seq.map fun q => { q with pos := q.pos + 1, held := c.keeps b0 q.held } := rfl
@[simp] theorem State.advance_lateFail (c : BusCall) (b0 : Byte) : (s.advance c b0).lateFail = s.lateFail := rfl
@[simp] theorem State.advance_device (c : BusCall) (b0 : Byte) : (s.advance c b0).device = s.device := rfl
@[simp] theorem State.advance_script (c : BusCall) (b0 : Byte) : (s.advance c b0).script = s.script := rfl
@[simp] theorem State.advance_inbox (c : BusCall) (b0 : Byte) : (s.advance c b0).inbox = s.inbox := rfl
@[simp] theorem State.advance_calls (c : BusCall) (b0 : Byte) : (s.advance c b0).calls = s.calls := rfl
@[simp] theorem State.advance_trace (c : BusCall) (b0 : Byte) : (s.advance c b0).trace = s.trace := rfl

/-! ### `accept` -/

@[simp] theorem State.accept_busAddr (cw : CmdWord) (rest : List HostEvent) : (s.accept cw rest).busAddr = s.busAddr := rfl
@[simp] theorem State.accept_cachedRange (cw : CmdWord) (rest : List HostEvent) : (s.accept cw rest).cachedRange = s.cachedRange := rfl
@[simp] theorem State.accept_seq (cw : CmdWord) (rest : List HostEvent) : (s.accept cw rest).seq = s.seq := rfl
@[simp] theorem State.accept_lateFail (cw : CmdWord) (rest : List HostEvent) : (s.accept cw rest).lateFail = s.lateFail := rfl
@[simp] theorem State.accept_device (cw : CmdWord) (rest : List HostEvent) : (s.accept cw rest).device = s.device := rfl
@[simp] theorem State.accept_script (cw : CmdWord) (rest : List HostEvent) : (s.accept cw rest).script = s.script := rfl
@[simp] theorem State.accept_inbox (cw : CmdWord) (rest : List HostEvent) : (s.accept cw rest).inbox = rest := rfl
@[simp] theorem State.accept_calls (cw : CmdWord) (rest : List HostEvent) : (s.accept cw rest).calls = s.calls := rfl
@[simp] theorem State.accept_trace (cw : CmdWord) (rest : List HostEvent) : (s.accept cw rest).trace = s.trace ++ [.command cw] := rfl

/-! ### the bus address byte -/

@[simp] theorem State.observe_busByte (e : Event) : (s.observe e).busByte = s.busByte := rfl
@[simp] theorem State.setCachedRange_busByte (range : Byte) : (s.setCachedRange range).busByte = s.busByte := rfl
@[simp] theorem State.start_busByte (i : Instr) : (s.start i).busByte = s.busByte := rfl
@[simp] theorem State.respond_busByte (r : Response) : (s.respond r).busByte = s.busByte := rfl
@[simp] theorem State.takeTurn_busByte : (s.takeTurn).busByte = s.busByte := rfl
@[simp] theorem State.issue_busByte (c : BusCall) (a : Option Answer) : (s.issue c a).busByte = s.busByte := rfl
@[simp] theorem State.advance_busByte (c : BusCall) (b0 : Byte) : (s.advance c b0).busByte = s.busByte := rfl
@[simp] theorem State.accept_busByte (cw : CmdWord) (rest : List HostEvent) : (s.accept cw rest).busByte = s.busByte := rfl

end Sys2Proof.Machine
end

