-- ==== Sys2Proof/Laws/Memory.lean ====
section
/-! SUPPORT. The laws of the register contents: read after write, and that every operation keeps the canonical form. -/

namespace Sys2Proof.Machine

@[simp] theorem Memory.read_nil (a : Nat) : Memory.read [] a = unlistedByte := rfl

theorem Memory.read_of_lt_all {m : Memory} {a : Nat} (h : ∀ c ∈ m, a < c.1) : m.read a = unlistedByte := by
  induction m with
  | nil => rfl
  | cons c m ih =>
    have hc : a < c.1 := h c (by simp)
    have hne : c.1 ≠ a := by omega
    simp only [Memory.read, if_neg hne]
    exact ih fun d hd => h d (by simp [hd])

/-- The addresses that stand after a write are those before, and the one written. -/
theorem Memory.mem_write {m : Memory} {a : Nat} {v : Byte} {c : Host.Cell} (h : c ∈ m.write a v) :
    c ∈ m ∨ (c = (a, v) ∧ v ≠ unlistedByte) := by
  induction m with
  | nil =>
    simp only [Memory.write] at h
    split at h
    · cases h
    · exact Or.inr ⟨by simpa using h, by assumption⟩
  | cons d m ih =>
    simp only [Memory.write] at h
    split at h
    · split at h
      · exact Or.inl h
      · rename_i hv
        rcases List.mem_cons.mp h with h | h
        · exact Or.inr ⟨h, hv⟩
        · exact Or.inl h
    · split at h
      · split at h
        · exact Or.inl (List.mem_cons_of_mem _ h)
        · rename_i hv
          rcases List.mem_cons.mp h with h | h
          · exact Or.inr ⟨h, hv⟩
          · exact Or.inl (List.mem_cons_of_mem _ h)
      · rcases List.mem_cons.mp h with h | h
        · exact Or.inl (by simp [h])
        · rcases ih h with h | h
          · exact Or.inl (List.mem_cons_of_mem _ h)
          · exact Or.inr h

theorem Memory.pairwise_write {m : Memory} (a : Nat) (v : Byte) (h : m.Pairwise (fun c d => c.1 < d.1)) :
    (m.write a v).Pairwise (fun c d => c.1 < d.1) := by
  induction m with
  | nil => simp only [Memory.write]; split <;> simp
  | cons d m ih =>
    obtain ⟨hd, hm⟩ := List.pairwise_cons.mp h
    simp only [Memory.write]
    split
    · rename_i hlt
      split
      · exact h
      · refine List.pairwise_cons.mpr ⟨fun e he => ?_, h⟩
        rcases List.mem_cons.mp he with he | he
        · subst he; exact hlt
        · exact Nat.lt_trans hlt (hd e he)
    · split
      · rename_i heq
        split
        · exact hm
        · exact List.pairwise_cons.mpr ⟨fun e he => by simpa [heq] using hd e he, hm⟩
      · refine List.pairwise_cons.mpr ⟨fun e he => ?_, ih hm⟩
        rcases Memory.mem_write he with he | ⟨he, -⟩
        · exact hd e he
        · subst he
          show d.1 < a
          omega

/-- A write within the register space keeps the canonical form. -/
theorem Memory.wf_write {m : Memory} {a : Nat} (v : Byte) (h : m.wf) (ha : a < registerSpace) :
    (m.write a v).wf := by
  refine ⟨Memory.pairwise_write a v h.1, fun c hc => ?_⟩
  rcases Memory.mem_write hc with hc | ⟨hc, hv⟩
  · exact h.2 c hc
  · subst hc; exact ⟨ha, hv⟩

/-- A read after a write to the same place gives the value written. -/
theorem Memory.read_write_same {m : Memory} (a : Nat) (v : Byte) (h : m.wf) : (m.write a v).read a = v := by
  obtain ⟨h, -⟩ := h
  induction m with
  | nil => simp only [Memory.write]; split <;> simp_all [Memory.read]
  | cons d m ih =>
    obtain ⟨hd, hm⟩ := List.pairwise_cons.mp h
    have above : d.1 = a → Memory.read m a = unlistedByte := fun e =>
      Memory.read_of_lt_all fun c hc => e ▸ hd c hc
    simp only [Memory.write]
    split
    · rename_i hlt
      have hne : d.1 ≠ a := by omega
      split
      · rename_i hv
        have : Memory.read m a = unlistedByte := Memory.read_of_lt_all fun c hc => Nat.lt_trans hlt (hd c hc)
        simp [Memory.read, hne, this, hv]
      · simp [Memory.read]
    · split
      · rename_i heq
        split
        · rename_i hv
          rw [hv]
          exact above heq.symm
        · simp [Memory.read]
      · rename_i hne
        have hne' : d.1 ≠ a := fun e => hne e.symm
        simpa [Memory.read, hne'] using ih hm

/-- A write leaves every other place alone. -/
theorem Memory.read_write_other (m : Memory) {a b : Nat} (v : Byte) (hab : b ≠ a) :
    (m.write a v).read b = m.read b := by
  induction m with
  | nil => simp only [Memory.write]; split <;> simp [Memory.read, hab.symm]
  | cons d m ih =>
    simp only [Memory.write]
    split
    · split
      · rfl
      · simp [Memory.read, hab.symm]
    · split
      · rename_i heq
        have hne : d.1 ≠ b := fun e => hab (by omega)
        split
        · simp [Memory.read, hne]
        · simp [Memory.read, hab.symm, hne]
      · simp [Memory.read, ih]

theorem Memory.wf_nil : Memory.wf [] := by simp [Memory.wf]

theorem Byte.toNat_lt_registerSpace (a : Byte) : a.toNat < registerSpace := a.isLt

theorem RefDevice.wf_write {d : RefDevice} (a v : Byte) (h : d.cells.wf) : (d.write a v).cells.wf :=
  Memory.wf_write v h (Byte.toNat_lt_registerSpace a)

theorem RefDevice.read_write_same {d : RefDevice} (a v : Byte) (h : d.cells.wf) : (d.write a v).read a = v :=
  Memory.read_write_same _ _ h

theorem RefDevice.read_write_other (d : RefDevice) {a b : Byte} (v : Byte) (h : b ≠ a) :
    (d.write a v).read b = d.read b :=
  Memory.read_write_other _ _ fun e => h (BitVec.eq_of_toNat_eq e)

theorem RefDevice.wf_after {d : RefDevice} (c : BusCall) (h : d.cells.wf) : (d.after c).cells.wf := by
  unfold RefDevice.after
  split
  · match c with
    | .write _ (.one _) => exact h
    | .write _ (.two r v) => exact RefDevice.wf_write r v h
    | .read _ _ => exact h
  · exact h

theorem RefDevice.wf_acts {d : RefDevice} (l : List OtherAct) (h : d.cells.wf) : (d.acts l).cells.wf := by
  unfold RefDevice.acts
  induction l generalizing d with
  | nil => exact h
  | cons act l ih =>
    refine ih ?_
    match act with
    | .poke a v => exact RefDevice.wf_write a v h
    | .point _ => exact h

end Sys2Proof.Machine
end

