-- ==== Sys2Proof/Laws/Bus.lean ====
section
/-! SUPPORT. What one bus transaction can do, said once: `State.call_cases`. -/

namespace Sys2Proof.Machine

/-- `t` is `s` after the environment alone has moved: its turn is taken, the device may have changed in canonical
form, everything else is as before. -/
structure EnvMoved (s t : State) : Prop where
  busAddr : t.busAddr = s.busAddr
  cachedRange : t.cachedRange = s.cachedRange
  seq : t.seq = s.seq
  lateFail : t.lateFail = s.lateFail
  script : t.script = s.script.tail
  inbox : t.inbox = s.inbox
  calls : t.calls = s.calls
  trace : t.trace = s.trace
  memory : s.memory.wf → t.memory.wf

theorem EnvMoved.busByte {s t : State} (h : EnvMoved s t) : t.busByte = s.busByte := by
  simp [State.busByte, h.busAddr]

theorem EnvMoved.takeTurn (s : State) : EnvMoved s s.takeTurn := by
  refine ⟨rfl, rfl, rfl, rfl, rfl, rfl, rfl, rfl, fun h => ?_⟩
  unfold State.memory at h ⊢
  rw [State.takeTurn_device]
  cases hd : s.device with
  | none => exact Memory.wf_nil
  | some d => rw [hd] at h; exact RefDevice.wf_acts _ h

theorem EnvMoved.after {s : State} {d : RefDevice} (c : BusCall) (hd : s.takeTurn.device = some d) :
    EnvMoved s { s.takeTurn with device := some (d.after c) } := by
  refine ⟨rfl, rfl, rfl, rfl, rfl, rfl, rfl, rfl, fun h => ?_⟩
  have h' := (EnvMoved.takeTurn s).memory h
  unfold State.memory at h' ⊢
  rw [hd] at h'
  exact RefDevice.wf_after c h'

theorem State.settle_cases (c : BusCall) (o : Offer) (u : State) :
    (∃ b0 b1, u.settle c o = .ok (b0, b1) ((u.issue c (some (c.answer (.ok b0 b1)))).advance c b0)) ∨
    (∃ sig, u.settle c o = .fail sig (u.issue c (some (.fail sig)))) := by
  cases o with
  | ok b0 b1 => exact Or.inl ⟨b0, b1, rfl⟩
  | fail sig => exact Or.inr ⟨sig, rfl⟩

/-- Whatever stands behind the port answers as some offer says, after the environment alone has moved, or does not
answer. -/
theorem State.behind_cases (c : BusCall) {s t : State} (moved : EnvMoved s t)
    (after : ∀ d, t.device = some d → EnvMoved s { t with device := some (d.after c) }) :
    ∃ u, EnvMoved s u ∧ ((∃ o, t.behind c = u.settle c o) ∨ t.behind c = .gone (u.issue c none)) := by
  unfold State.behind
  cases hd : t.device with
  | some d => exact ⟨_, after d hd, Or.inl ⟨_, rfl⟩⟩
  | none =>
    cases Config.freeAnswer t.calls with
    | none => exact ⟨t, moved, Or.inr rfl⟩
    | some o => exact ⟨t, moved, Or.inl ⟨o, rfl⟩⟩

/-- A reset right after an answer leaves what the answer showed and then the reset. -/
theorem State.settle_thenReset (c : BusCall) (o : Offer) (u : State) (addr : BusAddr) (range : Byte) :
    (u.settle c o).thenReset addr range = .gone ((u.issue c (some (c.answer o))).hostReset addr range) := by
  cases o with
  | ok b0 b1 => rfl
  | fail sig => cases c with
    | write _ _ => rfl
    | read _ n => cases n <;> rfl

/-- Everything one transaction can do: it is answered `ok` and the sequencer moves on; it fails; it is not answered;
or a reset comes before it is issued, while it waits, or once it is answered, which only a resetting turn brings. -/
theorem State.call_cases (c : BusCall) (s : State) :
    ∃ u, EnvMoved s u ∧
      ((∃ b0 b1, s.call c = .ok (b0, b1) ((u.issue c (some (c.answer (.ok b0 b1)))).advance c b0)) ∨
       (∃ sig, s.call c = .fail sig (u.issue c (some (.fail sig)))) ∨
       s.call c = .gone (u.issue c none) ∨
       (∃ addr range, s.turn.resets = true ∧ s.call c = .gone (u.hostReset addr range)) ∨
       (∃ addr range, s.turn.resets = true ∧ s.call c = .gone ((u.issue c none).hostReset addr range)) ∨
       (∃ o addr range, s.turn.resets = true ∧
         s.call c = .gone ((u.issue c (some (c.answer o))).hostReset addr range))) := by
  unfold State.call
  have moved := EnvMoved.takeTurn s
  have settled : ∀ (u : State) (o : Offer) (x : Access (Byte × Byte)), x = u.settle c o →
      (∃ b0 b1, x = .ok (b0, b1) ((u.issue c (some (c.answer (.ok b0 b1)))).advance c b0)) ∨
      (∃ sig, x = .fail sig (u.issue c (some (.fail sig)))) := by
    rintro u o _ rfl
    exact State.settle_cases c o u
  obtain ⟨w, hw, hb⟩ := State.behind_cases c moved fun d hd => EnvMoved.after c hd
  cases hv : s.turn.verdict with
  | behind =>
    refine ⟨w, hw, ?_⟩
    rcases hb with ⟨o, h⟩ | h
    · rcases settled w o _ h with h | h
      · exact Or.inl h
      · exact Or.inr (Or.inl h)
    · exact Or.inr (Or.inr (Or.inl h))
  | answer o =>
    refine ⟨_, moved, ?_⟩
    rcases settled s.takeTurn o _ rfl with h | h
    · exact Or.inl h
    · exact Or.inr (Or.inl h)
  | never => exact ⟨_, moved, Or.inr (Or.inr (Or.inl rfl))⟩
  | resetBefore addr range =>
    exact ⟨_, moved, Or.inr (Or.inr (Or.inr (Or.inl ⟨addr, range, by simp [Turn.resets, hv], rfl⟩)))⟩
  | resetDuring addr range =>
    exact ⟨_, moved, Or.inr (Or.inr (Or.inr (Or.inr (Or.inl ⟨addr, range, by simp [Turn.resets, hv], rfl⟩))))⟩
  | resetAfter offer addr range =>
    have hr : s.turn.resets = true := by simp [Turn.resets, hv]
    cases offer with
    | some o =>
      exact ⟨_, moved, Or.inr (Or.inr (Or.inr (Or.inr (Or.inr
        ⟨o, addr, range, hr, State.settle_thenReset c o _ addr range⟩))))⟩
    | none =>
      refine ⟨w, hw, ?_⟩
      rcases hb with ⟨o, h⟩ | h
      · exact Or.inr (Or.inr (Or.inr (Or.inr (Or.inr
          ⟨o, addr, range, hr, by simp only [h, State.settle_thenReset]⟩))))
      · exact Or.inr (Or.inr (Or.inr (Or.inr (Or.inl ⟨addr, range, hr, by simp only [h, Access.thenReset]⟩))))

/-- A transaction answered `ok`: what was observed, and that the sequencer moved on. -/
theorem State.call_ok {s t : State} {c : BusCall} {v : Byte × Byte} (h : s.call c = .ok v t) :
    ∃ u, EnvMoved s u ∧ t = (u.issue c (some (c.answer (.ok v.1 v.2)))).advance c v.1 := by
  obtain ⟨u, hu, h'⟩ := State.call_cases c s
  refine ⟨u, hu, ?_⟩
  rcases h' with ⟨_, _, h'⟩ | ⟨_, h'⟩ | h' | ⟨_, _, _, h'⟩ | ⟨_, _, _, h'⟩ | ⟨_, _, _, _, h'⟩ <;> rw [h] at h' <;> cases h'
  rfl

/-- A transaction that failed. -/
theorem State.call_fail {s t : State} {c : BusCall} {sig : FailSig} (h : s.call c = .fail sig t) :
    ∃ u, EnvMoved s u ∧ t = u.issue c (some (.fail sig)) := by
  obtain ⟨u, hu, h'⟩ := State.call_cases c s
  refine ⟨u, hu, ?_⟩
  rcases h' with ⟨_, _, h'⟩ | ⟨_, h'⟩ | h' | ⟨_, _, _, h'⟩ | ⟨_, _, _, h'⟩ | ⟨_, _, _, _, h'⟩ <;> rw [h] at h' <;> cases h'
  rfl

/-- A transaction after which the operation does not go on: the block waits at it, or a reset came. -/
theorem State.call_gone {s t : State} {c : BusCall} (h : s.call c = .gone t) :
    ∃ u, EnvMoved s u ∧ (t = u.issue c none ∨
      (∃ addr range, s.turn.resets = true ∧ t = u.hostReset addr range) ∨
      (∃ a addr range, s.turn.resets = true ∧ (a = none ∨ ∃ o, a = some (c.answer o)) ∧
        t = (u.issue c a).hostReset addr range)) := by
  obtain ⟨u, hu, h'⟩ := State.call_cases c s
  refine ⟨u, hu, ?_⟩
  rcases h' with ⟨_, _, h'⟩ | ⟨_, h'⟩ | h' | ⟨a, r, hr, h'⟩ | ⟨a, r, hr, h'⟩ | ⟨o, a, r, hr, h'⟩ <;> rw [h] at h' <;>
    cases h'
  · exact Or.inl rfl
  · exact Or.inr (Or.inl ⟨a, r, hr, rfl⟩)
  · exact Or.inr (Or.inr ⟨none, a, r, hr, Or.inl rfl, rfl⟩)
  · exact Or.inr (Or.inr ⟨_, a, r, hr, Or.inr ⟨o, rfl⟩, rfl⟩)

/-- An answered transaction leaves the block's fields alone. -/
theorem State.call_ok_fields {s t : State} {c : BusCall} {v : Byte × Byte} (h : s.call c = .ok v t) :
    t.busAddr = s.busAddr ∧ t.cachedRange = s.cachedRange ∧ t.lateFail = s.lateFail ∧
      t.seq = s.seq.map fun q => { q with pos := q.pos + 1, held := c.keeps v.1 q.held } := by
  obtain ⟨u, hu, rfl⟩ := State.call_ok h
  simp [hu.busAddr, hu.cachedRange, hu.lateFail, hu.seq]

/-! ### A transaction under a script -/

/-- The state a scripted `ok` leaves. -/
theorem State.call_scripted_ok {s : State} {u : Turn} {rest : List Turn} {b0 b1 : Byte} (c : BusCall)
    (hs : s.script = u :: rest) (hv : u.verdict = .answer (.ok b0 b1)) :
    s.call c = .ok (b0, b1) ((s.takeTurn.issue c (some (c.answer (.ok b0 b1)))).advance c b0) := by
  simp [State.call, State.turn, hs, hv, State.settle]

/-- The state a scripted failure leaves. -/
theorem State.call_scripted_fail {s : State} {u : Turn} {rest : List Turn} {sig : FailSig} (c : BusCall)
    (hs : s.script = u :: rest) (hv : u.verdict = .answer (.fail sig)) :
    s.call c = .fail sig (s.takeTurn.issue c (some (.fail sig))) := by
  simp [State.call, State.turn, hs, hv, State.settle]

/-- A scripted silence: the block waits at the transaction. -/
theorem State.call_scripted_never {s : State} {u : Turn} {rest : List Turn} (c : BusCall)
    (hs : s.script = u :: rest) (hv : u.verdict = .never) :
    s.call c = .gone (s.takeTurn.issue c none) := by
  simp [State.call, State.turn, hs, hv]

/-- A scripted answer with a reset right after it: the answer is observed, then the reset. -/
theorem State.call_scripted_resetAfter {s : State} {u : Turn} {rest : List Turn} {o : Offer} {addr : BusAddr}
    {range : Byte} (c : BusCall) (hs : s.script = u :: rest) (hv : u.verdict = .resetAfter (some o) addr range) :
    s.call c = .gone ((s.takeTurn.issue c (some (c.answer o))).hostReset addr range) := by
  simp [State.call, State.turn, hs, hv, State.settle_thenReset]

/-! ### A transaction with the reference device alone on the bus -/

theorem State.takeTurn_alone {s : State} {d : RefDevice} (h : s.AloneWith d) : s.takeTurn = s := by
  obtain ⟨hs, hd, -⟩ := h
  cases s
  simp_all [State.takeTurn, State.turn, RefDevice.acts]

/-- The device alone on the bus hears every transaction of the block and answers it. -/
theorem State.call_alone {s : State} {d : RefDevice} (c : BusCall) (h : s.AloneWith d) (hc : c.bus = s.busByte) :
    s.call c = .ok (d.read d.ptr, d.read (d.ptr + 1))
      (({ s with device := some (d.heard c) }.issue c
        (some (c.answer (.ok (d.read d.ptr) (d.read (d.ptr + 1)))))).advance c (d.read d.ptr)) := by
  have ht := State.takeTurn_alone h
  obtain ⟨hs, hd, hb⟩ := h
  have hears : d.hears c = true := by simp [RefDevice.hears, hc, State.busByte, hb]
  have hv : s.turn.verdict = .behind := by simp [State.turn, hs]
  simp [State.call, hv, ht, State.behind, hd, RefDevice.offer, RefDevice.after, hears, State.settle]

end Sys2Proof.Machine
end

