-- ==== Sys2Proof/Laws/Encoding.lean ====
section
/-! SUPPORT. The three fields of a command word and the word made of them determine each other (R100). -/

namespace Sys2Proof

@[simp] theorem cmdOp_packFields (op a b : Byte) : cmdOp (packFields op a b) = op := by
  simp only [cmdOp, packFields]
  ext k hk
  simp
  grind

@[simp] theorem cmdA_packFields (op a b : Byte) : cmdA (packFields op a b) = a := by
  simp only [cmdA, packFields]
  ext k hk
  simp
  grind

@[simp] theorem cmdB_packFields (op a b : Byte) : cmdB (packFields op a b) = b := by
  simp only [cmdB, packFields]
  ext k hk
  simp
  grind

theorem packFields_fields (cw : CmdWord) : packFields (cmdOp cw) (cmdA cw) (cmdB cw) = cw := by
  simp only [cmdOp, cmdA, cmdB, packFields]
  ext k hk
  simp
  grind

/-- Masking a word masks its fields, one by one. -/
theorem packFields_and (op a b m n p : Byte) :
    packFields op a b &&& packFields m n p = packFields (op &&& m) (a &&& n) (b &&& p) := by
  simp only [packFields]
  ext k hk
  simp
  grind

end Sys2Proof
end

