-- ==== Sys2Proof/Laws/Ops.lean ====
section
/-! SUPPORT. What the register access primitives do when they answer `ok`, and what a stretch of the sequencer does, each
said once. -/

namespace Sys2Proof.Machine

/-! ### `andThen` and the ends of an operation -/

@[simp] theorem Access.andThen_ok {α β : Type} (v : α) (s : State) (k : α → State → Access β) :
    (Access.ok v s).andThen k = k v s := rfl
@[simp] theorem Access.andThen_fail {α β : Type} (sig : FailSig) (s : State) (k : α → State → Access β) :
    (Access.fail sig s).andThen k = .fail sig s := rfl
@[simp] theorem Access.andThen_gone {α β : Type} (s : State) (k : α → State → Access β) :
    (Access.gone s).andThen k = .gone s := rfl
@[simp] theorem Access.orFail_ok {α : Type} (v : α) (s : State) (k : α → State → State) :
    (Access.ok v s).orFail k = k v s := rfl
@[simp] theorem Access.orFail_fail {α : Type} (sig : FailSig) (s : State) (k : α → State → State) :
    (Access.fail sig s).orFail k = s.respond (.fail sig) := rfl
@[simp] theorem Access.orFail_gone {α : Type} (s : State) (k : α → State → State) :
    (Access.gone s).orFail k = s := rfl
@[simp] theorem Access.orLateFail_ok {α : Type} (v : α) (s : State) (k : α → State → State) :
    (Access.ok v s).orLateFail k = k v s := rfl
@[simp] theorem Access.orLateFail_fail {α : Type} (sig : FailSig) (s : State) (k : α → State → State) :
    (Access.fail sig s).orLateFail k = s.respond (lateResponse s.lateFail sig) := rfl
@[simp] theorem Access.orLateFail_gone {α : Type} (s : State) (k : α → State → State) :
    (Access.gone s).orLateFail k = s := rfl
@[simp] theorem Access.orNotThisDevice_ok {α : Type} (v : α) (s : State) (k : α → State → State) :
    (Access.ok v s).orNotThisDevice k = k v s := rfl
@[simp] theorem Access.orNotThisDevice_fail {α : Type} (sig : FailSig) (s : State) (k : α → State → State) :
    (Access.fail sig s).orNotThisDevice k = s.respond (.ok (.bool false)) := rfl
@[simp] theorem Access.orNotThisDevice_gone {α : Type} (s : State) (k : α → State → State) :
    (Access.gone s).orNotThisDevice k = s := rfl

theorem Access.andThen_eq_ok {α β : Type} {x : Access α} {k : α → State → Access β} {v : β} {t : State}
    (h : x.andThen k = .ok v t) : ∃ w u, x = .ok w u ∧ k w u = .ok v t := by
  cases x with
  | ok w u => exact ⟨w, u, rfl, h⟩
  | fail sig u => cases h
  | gone u => cases h

/-! ### The primitives, when they answer `ok` -/

/-- `BusWrite`: one write transaction was observed, and the sequencer moved on. -/
theorem busWrite_ok {p : Payload} {s t : State} {x : Unit} (h : busWrite p s = .ok x t) :
    ∃ u b, EnvMoved s u ∧
      t = (u.issue (.write s.busByte p) (some (.ok []))).advance (.write s.busByte p) b := by
  obtain ⟨v, u, hc, hk⟩ := Access.andThen_eq_ok h
  cases hk
  obtain ⟨w, hw, rfl⟩ := State.call_ok hc
  exact ⟨w, v.1, hw, rfl⟩

/-- `MemWrite`: exactly the write frame `{addr, v}` (R64). -/
theorem memWrite_ok {addr v : Byte} {s t : State} {x : Unit} (h : memWrite addr v s = .ok x t) :
    ∃ u b, EnvMoved s u ∧
      t = (u.issue (.write s.busByte (.two addr v)) (some (.ok []))).advance (.write s.busByte (.two addr v)) b :=
  busWrite_ok h

/-- `BusRead` of one byte. -/
theorem busRead1_ok {s t : State} {v : Byte} (h : busRead1 s = .ok v t) :
    ∃ u, EnvMoved s u ∧
      t = (u.issue (.read s.busByte .one) (some (.ok [v]))).advance (.read s.busByte .one) v := by
  obtain ⟨w, u, hc, hk⟩ := Access.andThen_eq_ok h
  cases hk
  obtain ⟨x, hx, rfl⟩ := State.call_ok hc
  exact ⟨x, hx, rfl⟩

/-- `BusRead` of two bytes. -/
theorem busRead2_ok {s t : State} {v : Byte × Byte} (h : busRead2 s = .ok v t) :
    ∃ u, EnvMoved s u ∧
      t = (u.issue (.read s.busByte .two) (some (.ok [v.1, v.2]))).advance (.read s.busByte .two) v.1 := by
  obtain ⟨x, hx, rfl⟩ := State.call_ok h
  exact ⟨x, hx, rfl⟩

/-- `MemRead` of one byte: the select frame, then the read (R65). -/
theorem memRead1_ok {addr v : Byte} {s t : State} (h : memRead1 addr s = .ok v t) :
    ∃ m, busWrite (.one addr) s = .ok () m ∧ busRead1 m = .ok v t := by
  obtain ⟨_, m, hw, hr⟩ := Access.andThen_eq_ok h
  exact ⟨m, hw, hr⟩

/-- `MemRead` of two bytes: the select frame, then one 2-byte read (R65). -/
theorem memRead2_ok {addr : Byte} {v : Byte × Byte} {s t : State} (h : memRead2 addr s = .ok v t) :
    ∃ m, busWrite (.one addr) s = .ok () m ∧ busRead2 m = .ok v t := by
  obtain ⟨_, m, hw, hr⟩ := Access.andThen_eq_ok h
  exact ⟨m, hw, hr⟩

/-- The range-setting step: the read, the write of the composed byte, then the cache (R150). -/
theorem rangeStep_ok {range : Byte} {s t : State} {x : Unit} (h : rangeStep range s = .ok x t) :
    ∃ old m n, memRead1 (regAddr .DATA_FORMAT) s = .ok old m ∧
      memWrite (regAddr .DATA_FORMAT) (dataFormatCompose old range) m = .ok () n ∧ t = n.setCachedRange range := by
  obtain ⟨old, m, hr, h⟩ := Access.andThen_eq_ok h
  obtain ⟨_, n, hw, h⟩ := Access.andThen_eq_ok h
  cases h
  exact ⟨old, m, n, hr, hw, rfl⟩

/-! ### A stretch of the sequencer -/

theorem planOf_length (bus cached held : Byte) (i : Instr) : (planOf bus cached held i).length = fullCount i := by
  cases i <;> rfl

/-- The sequencer has a transaction exactly at the positions its operation has. -/
theorem Seq.plan_isSome {q : Seq} (bus cached : Byte) :
    (∃ c, q.plan bus cached = some c) ↔ q.pos < fullCount q.instr := by
  rw [← planOf_length bus cached q.held q.instr]
  constructor
  · rintro ⟨c, h⟩
    exact (List.getElem?_eq_some_iff.mp h).1
  · intro h
    exact ⟨_, List.getElem?_eq_getElem h⟩

/-- One transaction of the sequencer. -/
theorem runSequencer_at {n : Nat} {s : State} {q : Seq} {c : BusCall} (hq : s.seq = some q)
    (hc : q.plan s.busByte s.cachedRange = some c) :
    runSequencer (n + 1) s =
      match s.call c with
      | .gone t => t
      | .fail sig t => t.respond (q.failsWith t.lateFail sig)
      | .ok (b0, b1) t =>
        match q.closes b0 b1 with
        | some v => (q.commits t).respond (.ok v)
        | none => runSequencer n t := by
  simp only [runSequencer, hq, hc] <;> rcases s.call c with ⟨⟨b0, b1⟩, t⟩ | ⟨sig, t⟩ | t <;> rfl

end Sys2Proof.Machine
end

