-- ==== Sys2Proof/Laws/PerInstr.lean ====
section
/-! SUPPORT. Facts made per operation. `EncodingLayout`: the encoder puts the operation code of R102 in bits 23:16, and
zero in every operand field the format of R101 says must be zero. -/

namespace Sys2Proof.Laws.EncodingLayout

/-- The operation code of R102. -/
def opcode : Instr → Byte
  | .initialise => 0x01#8
  | .setRange _ => 0x02#8
  | .getRange => 0x03#8
  | .setDataRate _ => 0x04#8
  | .getDataRate => 0x05#8
  | .readRegister _ => 0x06#8
  | .writeRegister _ _ => 0x07#8
  | .readRegisterWord _ => 0x08#8
  | .getX => 0x09#8
  | .getY => 0x0A#8
  | .getZ => 0x0B#8
  | .getDeviceID => 0x0C#8

/-- How many operands the operation has: format N none, A one, AB two (R101). -/
def operandCount : Instr → Nat
  | .initialise => 0
  | .setRange _ => 1
  | .getRange => 0
  | .setDataRate _ => 1
  | .getDataRate => 0
  | .readRegister _ => 1
  | .writeRegister _ _ => 2
  | .readRegisterWord _ => 1
  | .getX => 0
  | .getY => 0
  | .getZ => 0
  | .getDeviceID => 0

def Statement (i : Instr) : Prop :=
  cmdOp (encode i) = opcode i ∧ (operandCount i < 1 → cmdA (encode i) = 0x00#8) ∧
    (operandCount i < 2 → cmdB (encode i) = 0x00#8)

theorem initialise : Statement .initialise := by simp [Statement, encode, opcode]
theorem setRange (range : Byte) : Statement (.setRange range) := by
  simp [Statement, encode, opcode, operandCount]
theorem getRange : Statement .getRange := by simp [Statement, encode, opcode]
theorem setDataRate (rate : Byte) : Statement (.setDataRate rate) := by
  simp [Statement, encode, opcode, operandCount]
theorem getDataRate : Statement .getDataRate := by simp [Statement, encode, opcode]
theorem readRegister (addr : Byte) : Statement (.readRegister addr) := by
  simp [Statement, encode, opcode, operandCount]
theorem writeRegister (addr value : Byte) : Statement (.writeRegister addr value) := by
  simp [Statement, encode, opcode, operandCount]
theorem readRegisterWord (addr : Byte) : Statement (.readRegisterWord addr) := by
  simp [Statement, encode, opcode, operandCount]
theorem getX : Statement .getX := by simp [Statement, encode, opcode]
theorem getY : Statement .getY := by simp [Statement, encode, opcode]
theorem getZ : Statement .getZ := by simp [Statement, encode, opcode]
theorem getDeviceID : Statement .getDeviceID := by simp [Statement, encode, opcode]

end Sys2Proof.Laws.EncodingLayout
end

