-- ==== Sys2Proof/Tests/Slice0.lean ====
section
/-! SUPPORT. Tests on fixed values, each expected value taken from the spec (95_test_vectors.md where a vector is named,
else the rule named), and a witness for the hypotheses of every statement. -/

namespace Sys2Proof.Tests

open Sys2Proof.Machine

/-! ## Small states -/

/-- A signal of the transport. -/
def s0 : FailSig := .one

/-- A turn in which the transport answers and nobody else acts. -/
def say (o : Offer) : Turn := ⟨[], .answer o⟩

/-- A write acknowledged. -/
def ack : Turn := say (.ok 0x00#8 0x00#8)

/-- A 1-byte read answered. -/
def byte (v : Byte) : Turn := say (.ok v 0x00#8)

/-- A block at bus address 0x53 with a cached range, idle, the transport following a script. -/
def bench (range : Byte) (script : List Turn) : State :=
  ⟨0x53#7, range, none, .propagate, none, script, [], 0, []⟩

/-- The same with the reference device attached and nobody else acting. -/
def deviceBench (range : Byte) (cells : Memory) : State :=
  ⟨0x53#7, range, none, .propagate, some ⟨0x53#7, 0x00#8, cells, s0⟩, [], [], 0, []⟩

/-- A command presented by the host. -/
def present (cw : CmdWord) (s : State) : State := { s with inbox := [.command cw] }

/-- The state an outcome goes on to. -/
def next (s : State) (o : Host.Outcome State Fault Refusal) : State :=
  match o with
  | .next t => t
  | .fault _ => s
  | .refused _ => s

/-- The events of one step from a state, after the command itself. -/
def seen (s : State) : List Event := (next s (step s)).trace.drop 1

/-- The register contents after one step. -/
def cellsAfter (s : State) : Memory := (next s (step s)).memory

def w1 (a : Byte) : Event := .bus (.write 0x53#8 (.one a)) (some (.ok []))
def w2 (a v : Byte) : Event := .bus (.write 0x53#8 (.two a v)) (some (.ok []))
def r1 (v : Byte) : Event := .bus (.read 0x53#8 .one) (some (.ok [v]))
def r2 (u v : Byte) : Event := .bus (.read 0x53#8 .two) (some (.ok [u, v]))
def done (v : Value) : Event := .response (.ok v)

/-! ## Decoding: words written out from R102, section 2.1 of the vectors -/

theorem test_decode_initialise : decode 0b000000010000000000000000#24 = some .initialise := by decide
theorem test_decode_setRange : decode 0b000000100000001100000000#24 = some (.setRange 0x03#8) := by decide
theorem test_decode_setRange_outOfRange : decode 0x02FF00#24 = some (.setRange 0xFF#8) := by decide
theorem test_decode_getRange : decode 0b000000110000000000000000#24 = some .getRange := by decide
theorem test_decode_setDataRate : decode 0b000001000000101000000000#24 = some (.setDataRate 0x0A#8) := by decide
theorem test_decode_getDataRate : decode 0b000001010000000000000000#24 = some .getDataRate := by decide
theorem test_decode_readRegister : decode 0b000001100011000100000000#24 = some (.readRegister 0x31#8) := by decide
theorem test_decode_writeRegister :
    decode 0b000001110010110100001000#24 = some (.writeRegister 0x2D#8 0x08#8) := by decide
theorem test_decode_readRegisterWord :
    decode 0b000010000011001000000000#24 = some (.readRegisterWord 0x32#8) := by decide
theorem test_decode_getX : decode 0b000010010000000000000000#24 = some .getX := by decide
theorem test_decode_getY : decode 0b000010100000000000000000#24 = some .getY := by decide
theorem test_decode_getZ : decode 0b000010110000000000000000#24 = some .getZ := by decide
theorem test_decode_getDeviceID : decode 0b000011000000000000000000#24 = some .getDeviceID := by decide
theorem test_decode_reserved :
    [0x000000#24, 0x0D0000#24, 0xFF0000#24, 0x010001#24, 0x010100#24, 0x030100#24, 0x020301#24, 0x063101#24].map
      decode = [none, none, none, none, none, none, none, none] := by decide

/-! ## Legal codes: a term each check refuses (R37, R38) -/

theorem test_wellFormed_admits_every_byte : (Instr.setRange 0xFF#8).wellFormed = true := by decide
theorem test_illegal_range_code : (Instr.setRange 0x04#8).legalCodes = false := by decide
theorem test_illegal_rate_code : (Instr.setDataRate 0x10#8).legalCodes = false := by decide
theorem test_legal_codes : (Instr.setRange (rangeCode .g16)).legalCodes = true ∧
    (Instr.setDataRate (rateCode 15)).legalCodes = true := by decide

/-! ## The register map (R27 to R29, C7): thirty different addresses within 0x00 to 0x39 -/

theorem test_axis_bases : [Axis.X, .Y, .Z].map (fun a => (regAddr (axisLow a), regAddr (axisHigh a))) =
    [Axis.X, .Y, .Z].map (fun a => (axisBase a, axisBase a + 1)) := by decide
/-- The addresses of the twelve normative names and of the eighteen labels. -/
def mapAddresses : List Nat :=
  [RegName.DEVID, .THRESH_TAP, .BW_RATE, .POWER_CTL, .INT_SOURCE, .DATA_FORMAT, .DATAX0, .DATAX1, .DATAY0, .DATAY1,
      .DATAZ0, .DATAZ1].map (fun r => (regAddr r).toNat) ++
    [RegLabel.OFSX, .OFSY, .OFSZ, .DUR, .LATENT, .WINDOW, .THRESH_ACT, .THRESH_INACT, .TIME_INACT, .ACT_INACT_CTL,
      .THRESH_FF, .TIME_FF, .TAP_AXES, .ACT_TAP_STATUS, .INT_ENABLE, .INT_MAP, .FIFO_CTL, .FIFO_STATUS].map
      (fun r => (labelAddr r).toNat)

theorem test_thirty_addresses : mapAddresses.length = 30 ∧
    ∀ n ∈ 0 :: (List.range 29).map (· + 0x1D), n ∈ mapAddresses := by decide

/-! ## Responses and field functions: sections 2.2 to 2.4 of the vectors -/

theorem test_response_words :
    [Response.ok (.bool true), .ok (.bool false), .ok .unit, .ok (.code2 3#2), .ok (.code4 0x0A#4), .ok (.byte 0xE5#8),
      .ok (.int16 (-1)), .ok (.int16 (-100)), .ok (.int16 (-32768)), .ok (.int16 32767), .fail s0, .illegal].map
      Response.word =
    [0x00001#18, 0x00000#18, 0x00000#18, 0x00003#18, 0x0000A#18, 0x000E5#18, 0x0FFFF#18, 0x0FF9C#18, 0x08000#18,
      0x07FFF#18, 0x10000#18, 0x20000#18] := by decide
theorem test_compose :
    [(0x00#8, 0x03#8), (0xFF#8, 0x00#8), (0x07#8, 0x02#8), (0x04#8, 0x00#8), (0x4B#8, 0x02#8), (0x00#8, 0x10#8),
      (0x40#8, 0x13#8), (0xA0#8, 0x50#8), (0x00#8, 0xFF#8)].map (fun p => dataFormatCompose p.1 p.2) =
    [0x0B#8, 0xF8#8, 0x0A#8, 0x08#8, 0x4A#8, 0x18#8, 0x5B#8, 0xF8#8, 0xFF#8] := by decide
theorem test_rangeOf_rateOf :
    [0x0B#8, 0xF8#8, 0xB9#8, 0xFE#8].map rangeOf = [3#2, 0#2, 1#2, 2#2] ∧
    [0x1A#8, 0x1F#8, 0xFF#8, 0xF0#8].map rateOf = [0xA#4, 0xF#4, 0xF#4, 0x0#4] := by decide
theorem test_le16s :
    [(0x34#8, 0x12#8), (0x80#8, 0x00#8), (0x00#8, 0x01#8), (0x00#8, 0x80#8), (0x01#8, 0x80#8), (0x9C#8, 0xFF#8),
      (0xFF#8, 0x7F#8), (0xFF#8, 0xFF#8)].map (fun p => le16s p.1 p.2) =
    [4660, 128, 256, -32768, -32767, -100, 32767, -1] := by decide

/-! ## One step each: sections 2.5 to 2.10 of the vectors -/

/-- V-IN1. -/
theorem test_initialise_ok :
    seen (present 0x010000#24 (bench 0x01#8 [ack, byte 0xE5#8, ack, ack, byte 0xB4#8, ack])) =
      [w1 0x00#8, r1 0xE5#8, w2 0x2D#8 0x08#8, w1 0x31#8, r1 0xB4#8, w2 0x31#8 0xB9#8, done (.bool true)] := by decide
/-- V-IN8: one bit off is a mismatch. -/
theorem test_initialise_mismatch :
    seen (present 0x010000#24 (bench 0x01#8 [ack, byte 0xE4#8, ack, ack, byte 0xB4#8, ack])) =
      [w1 0x00#8, r1 0xE4#8, done (.bool false)] := by decide
/-- V-RG7: an out-of-range operand lands in bit 4, and the cache takes it whole. -/
theorem test_setRange_verbatim :
    let s := present 0x021000#24 (bench 0x00#8 [ack, byte 0x00#8, ack])
    seen s = [w1 0x31#8, r1 0x00#8, w2 0x31#8 0x18#8, done .unit] ∧ (next s (step s)).cachedRange = 0x10#8 := by decide
/-- V-RG6: a failure of the write frame leaves the cache. -/
theorem test_setRange_write_fails :
    let s := present 0x020300#24 (bench 0x01#8 [ack, byte 0x09#8, say (.fail s0)])
    seen s = [w1 0x31#8, r1 0x09#8, .bus (.write 0x53#8 (.two 0x31#8 0x0B#8)) (some (.fail s0)), .response (.fail s0)] ∧
      (next s (step s)).cachedRange = 0x01#8 := by decide
/-- V-RG9: the cache is not refreshed. -/
theorem test_getRange :
    let s := present 0x030000#24 (bench 0x02#8 [ack, byte 0x4B#8])
    seen s = [w1 0x31#8, r1 0x4B#8, done (.code2 3#2)] ∧ (next s (step s)).cachedRange = 0x02#8 := by decide
/-- V-DR4: written verbatim. -/
theorem test_setDataRate :
    seen (present 0x041A00#24 (bench 0x00#8 [ack])) = [w2 0x2C#8 0x1A#8, done .unit] := by decide
/-- V-DR7. -/
theorem test_getDataRate :
    seen (present 0x050000#24 (bench 0x00#8 [ack, byte 0x1F#8])) = [w1 0x2C#8, r1 0x1F#8, done (.code4 0xF#4)] := by
  decide
/-- V-RA2: an address with no map entry. -/
theorem test_readRegister :
    seen (present 0x067E00#24 (bench 0x00#8 [ack, byte 0x5A#8])) = [w1 0x7E#8, r1 0x5A#8, done (.byte 0x5A#8)] := by
  decide
/-- V-RA6: the cache is not touched. -/
theorem test_writeRegister :
    let s := present 0x073103#24 (bench 0x01#8 [ack])
    seen s = [w2 0x31#8 0x03#8, done .unit] ∧ (next s (step s)).cachedRange = 0x01#8 := by decide
/-- V-RA10: address 0xFF. -/
theorem test_readRegisterWord :
    seen (present 0x08FF00#24 (bench 0x00#8 [ack, say (.ok 0x01#8 0x02#8)])) =
      [w1 0xFF#8, r2 0x01#8 0x02#8, done (.int16 513)] := by decide
/-- V-AX1. -/
theorem test_getX :
    seen (present 0x090000#24 (bench 0x00#8 [ack, say (.ok 0x9C#8 0xFF#8)])) =
      [w1 0x32#8, r2 0x9C#8 0xFF#8, done (.int16 (-100))] := by decide
/-- V-AX3: the Y base is 0x34. -/
theorem test_getY :
    seen (present 0x0A0000#24 (bench 0x00#8 [ack, say (.ok 0x00#8 0x80#8)])) =
      [w1 0x34#8, r2 0x00#8 0x80#8, done (.int16 (-32768))] := by decide
/-- V-AX4. -/
theorem test_getZ :
    seen (present 0x0B0000#24 (bench 0x00#8 [ack, say (.ok 0xFF#8 0x7F#8)])) =
      [w1 0x36#8, r2 0xFF#8 0x7F#8, done (.int16 32767)] := by decide
/-- V-ID3: the signal, not `ok(false)`. -/
theorem test_getDeviceID_fails :
    seen (present 0x0C0000#24 (bench 0x00#8 [ack, say (.fail s0)])) =
      [w1 0x00#8, .bus (.read 0x53#8 .one) (some (.fail s0)), .response (.fail s0)] := by decide
/-- P7 step 2: a reserved word. -/
theorem test_reserved_word : seen (present 0x020301#24 (bench 0x00#8 [ack])) = [.response .illegal] := by decide
/-- V-RS2. -/
theorem test_reset_event :
    let s := { bench 0x00#8 [] with inbox := [.reset 0x1D#7 0x03#8] }
    (next s (step s)).busAddr = 0x1D#7 ∧ (next s (step s)).cachedRange = 0x03#8 := by decide

/-! ## One step each with the reference device: part 3 of the vectors -/

/-- P1 step 1. -/
theorem test_device_initialise :
    cellsAfter (present 0x010000#24 (deviceBench 0x01#8 [(0x00, 0xE5#8), (0x31, 0xB4#8)])) =
      [(0x00, 0xE5#8), (0x2D, 0x08#8), (0x31, 0xB9#8)] := by decide
/-- P3 step 1: bits 7:4 of BW_RATE are cleared. -/
theorem test_device_setDataRate :
    cellsAfter (present 0x040A00#24 (deviceBench 0x00#8 [(0x2C, 0x1F#8)])) = [(0x2C, 0x0A#8)] := by decide
/-- V-AX2: getY returns the Y pair. -/
theorem test_device_getY :
    seen (present 0x0A0000#24 (deviceBench 0x00#8
      [(0x32, 0x11#8), (0x33, 0x11#8), (0x34, 0x22#8), (0x35, 0x22#8), (0x36, 0x33#8), (0x37, 0x33#8)])) =
      [w1 0x34#8, r2 0x22#8 0x22#8, done (.int16 8738)] := by decide
/-- Writing the byte an unlisted cell reads as takes the cell off the list. -/
theorem test_memory_canonical : Memory.write [(0x2C, 0x1F#8), (0x31, 0x09#8)] 0x2C 0x00#8 = [(0x31, 0x09#8)] := by decide

/-! ## The host's two questions -/

/-- Every row's word, with operand bits zero, is the row's instruction, and the step after reset runs it. -/
theorem test_table_words_run_from_reset :
    ∀ op ∈ List.range 12, (decodeTableWord 24 ((op + 1) * 65536)).isSome = true ∧
      (match step (State.reset.withFetchWord 24 ((op + 1) * 65536)) with
        | .next _ => true
        | .fault _ => false
        | .refused _ => false) = true := by decide

/-! ## Witnesses: a state and operands that meet each statement's hypotheses -/

/-- The state an operation goes on to. -/
def ran (i : Instr) (s : State) : State := next s (exec i s)

/-- A block whose events are one reset, with the transport following a script. -/
def fresh (range : Byte) (script : List Turn) : State :=
  { bench range script with trace := [.reset 0x53#7 range] }

/-- A block whose readRegister waits at its first transaction. -/
def stalled : State := { bench 0x01#8 [] with seq := some ⟨.readRegister 0x31#8, 0, 0x00#8⟩ }

/-- The six turns in which an initialize completes. -/
def sixTurns : List Turn := [ack, byte 0xE5#8, ack, ack, byte 0xB4#8, ack]

/-- A failing turn. -/
def failing : Turn := say (.fail s0)

theorem witness_DecodeEncodeRoundTrip : (Instr.writeRegister 0xFF#8 0xFF#8).wellFormed = true := by decide

theorem witness_DecodedWordReencodes :
    decode 0x02FF00#24 = some (.setRange 0xFF#8) ∧ decode 0x0C0000#24 = some .getDeviceID := by decide

theorem witness_ResponseWordFields :
    (Response.fail s0).word.extractLsb' 16 2 ≠ 0#2 ∧ Response.illegal.word.extractLsb' 16 2 ≠ 0#2 := by decide

/-- Also for `RangeOfRecoversCode` and `DeviceRangeRoundTrip`. -/
theorem witness_DataFormatComposeBits : (0x00#8 : Byte).toNat ≤ 3 ∧ (0x03#8 : Byte).toNat ≤ 3 := by decide

theorem witness_ResetEventLoadsItsArguments :
    { stalled with inbox := [.reset 0x7F#7 0xFF#8] }.inbox = .reset 0x7F#7 0xFF#8 :: [] := by decide

theorem witness_StepRunsDecodedCommand :
    (present 0x020300#24 (bench 0x00#8 [])).Idle ∧
    (present 0x020300#24 (bench 0x00#8 [])).inbox = .command 0x020300#24 :: [] ∧
    decode 0x020300#24 = some (.setRange 0x03#8) := by decide

theorem witness_ReservedWordAnswersIllegal :
    (present 0x0D0000#24 (bench 0x00#8 [])).Idle ∧
    (∀ row ∈ opcodeTable, ¬ row.spells 0x0D0000#24) ∧ ∀ row ∈ opcodeTable, ¬ row.spells 0x020001#24 :=
  ⟨rfl, by simp [opcodeTable, OpcodeRow.spells], by simp [opcodeTable, OpcodeRow.spells]⟩

theorem witness_BlockWaitsForTheHost : (bench 0x00#8 []).inbox = [] ∧ stalled.inbox = [] := by decide

/-- At the first transaction, and at the last of initialize. -/
theorem witness_StalledCallStallsTheBlock :
    ([] : List Turn).map (·.verdict) = ([] : List (Byte × Byte)).map (fun o => .answer (.ok o.1 o.2)) ∧
    (⟨[], .never⟩ : Turn).verdict = .never ∧ ([] : List Turn).length < fullCount (.setDataRate 0x0A#8) ∧
    (sixTurns.take 5).map (·.verdict) = [(0x00#8, 0x00#8), (0xE5#8, 0x00#8), (0x00#8, 0x00#8), (0x00#8, 0x00#8),
      (0xB4#8, 0x00#8)].map (fun o => .answer (.ok o.1 o.2)) ∧
    (sixTurns.take 5).length < fullCount .initialise ∧
    ¬ (present 0x010000#24 stalled).Idle := by decide

/-- While a transaction waits, and once the last one is answered: no response, and the cache is the reset's. -/
theorem witness_MidOperationResetAbandons :
    (let s := bench 0x01#8 [ack, ⟨[], .resetDuring 0x1D#7 0x03#8⟩]
     exec .getRange s = .next (ran .getRange s) ∧
     (ran .getRange s).trace = s.trace ++ [w1 0x31#8, .bus (.read 0x53#8 .one) none, .reset 0x1D#7 0x03#8]) ∧
    (let s := bench 0x01#8 [ack, byte 0x00#8, ⟨[], .resetAfter (some (.ok 0x00#8 0x00#8)) 0x1D#7 0x00#8⟩]
     exec (.setRange 0x03#8) s = .next (ran (.setRange 0x03#8) s) ∧
     (ran (.setRange 0x03#8) s).cachedRange = 0x00#8 ∧
     (ran (.setRange 0x03#8) s).trace =
       s.trace ++ [w1 0x31#8, r1 0x00#8, w2 0x31#8 0x0B#8, .reset 0x1D#7 0x00#8]) := ⟨⟨rfl, rfl⟩, rfl, rfl, rfl⟩

/-- In the identity read, after it under each policy, in another operation, and with a reset before the response. -/
theorem witness_FirstFailureEndsTheOperation :
    (let s := bench 0x01#8 [failing]
     Event.bus (.write 0x53#8 (.one 0x00#8)) (some (.fail s0)) ∈ (ran .initialise s).trace) ∧
    (let s := bench 0x01#8 [ack, byte 0xE5#8, failing]
     s.lateFail = .propagate ∧
     Event.bus (.write 0x53#8 (.two 0x2D#8 0x08#8)) (some (.fail s0)) ∈ (ran .initialise s).trace) ∧
    (let s := { bench 0x01#8 [ack, byte 0xE5#8, failing] with lateFail := .reportFalse }
     Event.bus (.write 0x53#8 (.two 0x2D#8 0x08#8)) (some (.fail s0)) ∈ (ran .initialise s).trace) ∧
    (let s := bench 0x01#8 [ack, byte 0x00#8, failing]
     Event.bus (.write 0x53#8 (.two 0x31#8 0x0B#8)) (some (.fail s0)) ∈ (ran (.setRange 0x03#8) s).trace) ∧
    (let s := bench 0x01#8 [⟨[], .resetAfter (some (.fail s0)) 0x1D#7 0x00#8⟩]
     (ran .getX s).trace = [.bus (.write 0x53#8 (.one 0x32#8)) (some (.fail s0)), .reset 0x1D#7 0x00#8]) := by decide

/-- Also for `OnlySetRangeWritesTheCache`: undisturbed states in which an operation completes, waits, and fails. -/
theorem witness_OperationsKeepBusAddr :
    ∀ s ∈ [bench 0x01#8 [ack, byte 0x00#8, ack], bench 0x01#8 [ack, ⟨[], .never⟩], bench 0x01#8 [failing]],
      s.Undisturbed ∧ exec (.setRange 0x03#8) s = .next (ran (.setRange 0x03#8) s) :=
  fun s h => ⟨by revert s; decide, rfl⟩

/-- Also for `ResultTypes`. -/
theorem witness_TransactionShapes :
    let s := bench 0x00#8 [ack, say (.ok 0x00#8 0x80#8)]
    exec .getY s = .next (ran .getY s) ∧
    (ran .getY s).trace = s.trace ++ ([w1 0x34#8] ++ r2 0x00#8 0x80#8 :: [done (.int16 (-32768))]) := ⟨rfl, rfl⟩

theorem witness_TransactionCounts :
    (let s := bench 0x01#8 sixTurns
     (ran .initialise s).trace = s.trace ++ [w1 0x00#8, r1 0xE5#8, w2 0x2D#8 0x08#8, w1 0x31#8, r1 0xB4#8,
       w2 0x31#8 0xB9#8] ++ [done (.bool true)]) ∧
    (let s := bench 0x01#8 [ack, byte 0x00#8]
     (ran .initialise s).trace = s.trace ++ [w1 0x00#8, r1 0x00#8] ++ [done (.bool false)]) ∧
    (let s := bench 0x01#8 [ack]
     (ran (.setDataRate 0x0F#8) s).trace = s.trace ++ [w2 0x2C#8 0x0F#8] ++ [done .unit]) ∧
    ∀ e ∈ [w1 0x00#8, r1 0xE5#8, w2 0x2D#8 0x08#8, r2 0x00#8 0x00#8], e.answeredOk = true := by decide

theorem witness_IdentityGatesInitialize :
    let s := bench 0x01#8 sixTurns
    exec .initialise s = .next (ran .initialise s) ∧
    (ran .initialise s).trace = s.trace ++ [w1 0x00#8, r1 0xE5#8] ++ .bus (.write 0x53#8 (.two 0x2D#8 0x08#8))
      (some (.ok [])) :: [w1 0x31#8, r1 0xB4#8, w2 0x31#8 0xB9#8, done (.bool true)] := ⟨rfl, rfl⟩

theorem witness_StepKeepsHistory :
    let s := present 0x020300#24 (fresh 0x01#8 [ack, byte 0x00#8, ack])
    s.MatchesHistory ∧ step s = .next (next s (step s)) := ⟨⟨rfl, rfl, rfl⟩, rfl⟩

theorem witness_StepKeepsTransactionShapes :
    let s := present 0x020300#24 (bench 0x01#8 [ack, byte 0x00#8, ack])
    ReadsFollowSelect s.trace ∧ CarriesBusAddr s.trace ∧ step s = .next (next s (step s)) :=
  ⟨fun before after bus n a h => by simp [present, bench] at h, fun c a h => by simp [present, bench] at h, rfl⟩

theorem witness_StepKeepsMemoryForm :
    let s := present 0x073103#24 (deviceBench 0x01#8 [(0x00, 0xE5#8), (0x31, 0xB4#8)])
    s.memoryWf ∧ s.SeqLegal ∧ step s = .next (next s (step s)) :=
  ⟨by decide, fun q h => by simp [present, deviceBench] at h, rfl⟩

/-- An initialize that configures, and one whose first transaction fails. -/
theorem witness_LifecycleOfInitialize :
    let began (script : List Turn) : State := present 0x010000#24 (fresh 0x01#8 script)
    (∀ script, (began script).Idle ∧ (began script).MatchesHistory ∧
      (began script).inbox = .command 0x010000#24 :: []) ∧
    (let s := began sixTurns
     step s = .next (next s (step s)) ∧ (next s (step s)).trace = s.trace ++ .command 0x010000#24 ::
       [w1 0x00#8, r1 0xE5#8, w2 0x2D#8 0x08#8, w1 0x31#8, r1 0xB4#8, w2 0x31#8 0xB9#8] ++ [done (.bool true)]) ∧
    (let s := began [failing]
     step s = .next (next s (step s)) ∧ (next s (step s)).trace = s.trace ++ .command 0x010000#24 ::
       [.bus (.write 0x53#8 (.one 0x00#8)) (some (.fail s0))] ++ [done (.bool false)]) :=
  ⟨fun _ => ⟨rfl, ⟨rfl, rfl, rfl⟩, rfl⟩, ⟨rfl, rfl⟩, ⟨rfl, rfl⟩⟩

theorem witness_InitializeConfiguresTheSensor :
    (bench 0x01#8 sixTurns).Hears sixTurns [.ok 0x00#8 0x00#8, .ok 0xE5#8 0x00#8, .ok 0x00#8 0x00#8,
      .ok 0x00#8 0x00#8, .ok 0xB4#8 0x00#8, .ok 0x00#8 0x00#8] [] := ⟨rfl, rfl⟩

/-- Also the failure clauses of every other operation, and `SetDataRateOverwritesBwRate` and
`WriteRegisterSendsOneFrame` (the first turn alone). -/
theorem witness_InitializeReportsNotThisDevice :
    (bench 0x01#8 [ack, byte 0xE4#8]).Hears [ack, byte 0xE4#8] [.ok 0x00#8 0x00#8, .ok 0xE4#8 0x00#8] [] ∧
    (0xE4#8 : Byte) ≠ 0xE5#8 ∧
    (bench 0x01#8 [failing]).Hears [failing] [.fail s0] [] ∧
    (bench 0x01#8 [ack, failing]).Hears [ack, failing] [.ok 0x00#8 0x00#8, .fail s0] [] ∧
    (bench 0x01#8 [ack]).Hears [ack] [.ok 0x00#8 0x00#8] [] :=
  ⟨⟨rfl, rfl⟩, by decide, ⟨rfl, rfl⟩, ⟨rfl, rfl⟩, ⟨rfl, rfl⟩⟩

/-- A failure at each of the four later transactions. -/
theorem witness_InitializeLateFailure :
    ∀ n ∈ [2, 3, 4, 5], (bench 0x01#8 (sixTurns.take n ++ [failing])).script = (sixTurns.take n ++ [failing]) ++ [] ∧
      (sixTurns.take n ++ [failing]).map (·.verdict) = ([Offer.ok 0x00#8 0x00#8, .ok 0xE5#8 0x00#8, .ok 0x00#8 0x00#8,
        .ok 0x00#8 0x00#8, .ok 0xB4#8 0x00#8].take n ++ [Offer.fail s0]).map Verdict.answer := by decide

theorem witness_SetRangeRewritesDataFormat :
    (bench 0x01#8 [ack, byte 0xFF#8, ack, ack]).Hears [ack, byte 0xFF#8, ack]
      [.ok 0x00#8 0x00#8, .ok 0xFF#8 0x00#8, .ok 0x00#8 0x00#8] [ack] ∧
    (bench 0x01#8 [ack, byte 0xFF#8, failing]).Hears [ack, byte 0xFF#8, failing]
      [.ok 0x00#8 0x00#8, .ok 0xFF#8 0x00#8, .fail s0] [] := ⟨⟨rfl, rfl⟩, ⟨rfl, rfl⟩⟩

/-- Also for `WordReadsSelectThenReadTwo`; others act in between. -/
theorem witness_ByteReadsSelectThenRead :
    (bench 0x01#8 [ack, ⟨[.poke 0x31#8 0x0B#8], .answer (.ok 0x0B#8 0x80#8)⟩]).Hears
      [ack, ⟨[.poke 0x31#8 0x0B#8], .answer (.ok 0x0B#8 0x80#8)⟩] [.ok 0x00#8 0x00#8, .ok 0x0B#8 0x80#8] [] ∧
    ((Instr.getRange = .getRange ∧ (0x31#8 : Byte) = 0x31#8) ∧ (Instr.getZ = .getZ ∧ (0x36#8 : Byte) = 0x36#8)) :=
  ⟨⟨rfl, rfl⟩, by decide⟩

theorem witness_AliasesExpand :
    Instr.getZ = .getZ ∧ Instr.readRegisterWord (axisBase .Z) = .readRegisterWord 0x36#8 := by decide

theorem witness_AnswersDecideTheOperation :
    let s := bench 0x01#8 sixTurns
    let s' := { deviceBench 0x01#8 [(0x00, 0xE4#8)] with script := sixTurns }
    s'.busAddr = s.busAddr ∧ s'.cachedRange = s.cachedRange ∧ s'.lateFail = s.lateFail ∧ s'.trace = s.trace ∧
    s'.script = s.script ∧ (∀ u ∈ s.script, u.fixed = true) ∧ 6 ≤ s.script.length ∧
    exec .initialise s = .next (ran .initialise s) ∧ exec .initialise s' = .next (ran .initialise s') :=
  ⟨rfl, rfl, rfl, rfl, rfl, by decide, by decide, rfl, rfl⟩

theorem witness_CacheIsReadByInitializeAlone : Instr.getRange ≠ .initialise := by decide

/-- The reference device, or a script long enough. -/
theorem witness_SignalsAreOnlyPassedOn :
    (deviceBench 0x01#8 []).device ≠ none ∧
    (∀ u ∈ (bench 0x01#8 ([ack, failing] ++ sixTurns)).script, u.fixed = true) ∧
    6 ≤ (bench 0x01#8 ([ack, failing] ++ sixTurns)).script.length ∧
    exec .getX (deviceBench 0x01#8 []) = .next (ran .getX (deviceBench 0x01#8 [])) :=
  ⟨by decide, by decide, by decide, rfl⟩

/-- For every statement about the block alone with the reference device: identity right, identity wrong. -/
theorem witness_AloneWith :
    ∀ cells ∈ [[(0x00, 0xE5#8), (0x31, 0xB4#8)], [(0x00, 0xE4#8)]],
      (deviceBench 0x01#8 cells).AloneWith ⟨0x53#7, 0x00#8, cells, s0⟩ ∧ Memory.wf cells := by
  intro cells h
  refine ⟨⟨rfl, rfl, rfl⟩, ?_⟩
  revert cells
  decide

theorem witness_DeviceElsewhereIsSilent :
    let s := { bench 0x01#8 [] with device := some ⟨0x1D#7, 0x00#8, [], s0⟩ }
    s.script = [] ∧ s.device = some ⟨0x1D#7, 0x00#8, [], s0⟩ ∧ (0x1D#7 : BusAddr) ≠ s.busAddr := by decide

/-- Also for `FailedWriteMayHaveLanded` (its device). -/
theorem witness_InterleavedSelectCorruptsARead :
    let s := { deviceBench 0x01#8 [(0x32, 0x11#8)] with script := [⟨[], .behind⟩, ⟨[.point 0x32#8], .behind⟩] }
    s.script = [⟨[], .behind⟩, ⟨[.point 0x32#8], .behind⟩] ∧
    s.device = some ⟨0x53#7, 0x00#8, [(0x32, 0x11#8)], s0⟩ := by decide

end Sys2Proof.Tests
end

section
/-! PROOFS. The type of each operation's result (R12): which responses a stretch of a run shows, followed through the
shared operations. -/

namespace Sys2Proof.Machine

/-! ### The responses a stretch of a run shows -/

/-- The trace of `t` is that of `s` with events after it, and every response among these meets `P`. -/
def Shows (P : Response → Prop) (s t : State) : Prop :=
  ∃ seen, t.trace = s.trace ++ seen ∧ ∀ r, .response r ∈ seen → P r

theorem Shows.trans {P : Response → Prop} {s t u : State} (hst : Shows P s t) (htu : Shows P t u) : Shows P s u := by
  obtain ⟨seen, ht, hseen⟩ := hst
  obtain ⟨later, hu, hlater⟩ := htu
  refine ⟨seen ++ later, by rw [hu, ht, List.append_assoc], fun r hr => ?_⟩
  exact (List.mem_append.mp hr).elim (hseen r) (hlater r)

theorem Shows.respond {P : Response → Prop} {r : Response} (hr : P r) (s : State) : Shows P s (s.respond r) :=
  ⟨[.response r], rfl, by simp [hr]⟩

theorem Shows.mem_drop {P : Response → Prop} {s t : State} {r : Response} (h : Shows P s t)
    (hr : .response r ∈ t.trace.drop s.trace.length) : P r := by
  obtain ⟨seen, ht, hseen⟩ := h
  rw [ht, List.drop_left] at hr
  exact hseen r hr

/-- The state an access comes out in. -/
def Access.state {α : Type} : Access α → State
  | .ok _ s => s
  | .fail _ s => s
  | .gone s => s

/-! ### The three kinds of `?` are one, up to the response to a failure -/

/-- A `?` that answers a failure with `answer`, which may read the strap (R213 to R215). -/
def Access.orRespond {α : Type} (answer : InitLateFail → FailSig → Response) (x : Access α) (k : α → State → State) :
    State :=
  match x with
  | .ok v s => k v s
  | .fail sig s => s.respond (answer s.lateFail sig)
  | .gone s => s

theorem Access.orFail_eq {α : Type} (x : Access α) (k : α → State → State) :
    x.orFail k = x.orRespond (fun _ sig => .fail sig) k := rfl

theorem Access.orLateFail_eq {α : Type} (x : Access α) (k : α → State → State) :
    x.orLateFail k = x.orRespond lateResponse k := rfl

theorem Access.orNotThisDevice_eq {α : Type} (x : Access α) (k : α → State → State) :
    x.orNotThisDevice k = x.orRespond (fun _ _ => .ok (.bool false)) k := rfl

/-! ### No transaction shows a response, and an operation shows the one it ends with -/

section
variable {P : Response → Prop} {α β : Type} {s : State} {x : Access α}

theorem State.call_shows (P : Response → Prop) (c : BusCall) (s : State) : Shows P s (s.call c).state := by
  obtain ⟨u, hu, ⟨_, _, h⟩ | ⟨_, h⟩ | h | ⟨_, _, -, h⟩ | ⟨_, _, -, h⟩ | ⟨_, _, _, -, h⟩⟩ := State.call_cases c s <;>
    simp [Shows, h, Access.state, hu.trace]

theorem Access.andThen_shows {k : α → State → Access β} (hx : Shows P s x.state)
    (hk : ∀ v t, Shows P t (k v t).state) : Shows P s (x.andThen k).state := by
  cases x with
  | ok v t => exact hx.trans (hk v t)
  | fail sig t => exact hx
  | gone t => exact hx

theorem Access.orRespond_shows {answer : InitLateFail → FailSig → Response} {k : α → State → State}
    (hx : Shows P s x.state) (hfail : ∀ policy sig, P (answer policy sig)) (hk : ∀ v t, Shows P t (k v t)) :
    Shows P s (x.orRespond answer k) := by
  cases x with
  | ok v t => exact hx.trans (hk v t)
  | fail sig t => exact hx.trans (.respond (hfail t.lateFail sig) t)
  | gone t => exact hx

theorem Access.orFail_shows {k : α → State → State} (hx : Shows P s x.state) (hfail : ∀ sig, P (.fail sig))
    (hk : ∀ v t, Shows P t (k v t)) : Shows P s (x.orFail k) := by
  rw [Access.orFail_eq]
  exact Access.orRespond_shows hx (fun _ => hfail) hk

theorem Access.orLateFail_shows {k : α → State → State} (hx : Shows P s x.state)
    (hfail : ∀ policy sig, P (lateResponse policy sig)) (hk : ∀ v t, Shows P t (k v t)) :
    Shows P s (x.orLateFail k) := by
  rw [Access.orLateFail_eq]
  exact Access.orRespond_shows hx hfail hk

theorem Access.orNotThisDevice_shows {k : α → State → State} (hx : Shows P s x.state)
    (hfail : P (.ok (.bool false))) (hk : ∀ v t, Shows P t (k v t)) : Shows P s (x.orNotThisDevice k) := by
  rw [Access.orNotThisDevice_eq]
  exact Access.orRespond_shows hx (fun _ _ => hfail) hk

end

theorem Shows.ok {α : Type} {P : Response → Prop} {s t : State} (v : α) (h : t.trace = s.trace) :
    Shows P s (Access.ok v t).state :=
  ⟨[], by simp [Access.state, h], by simp⟩

theorem busWrite_shows (P : Response → Prop) (p : Payload) (s : State) : Shows P s (busWrite p s).state :=
  Access.andThen_shows (State.call_shows P _ s) fun _ _ => .ok () rfl

theorem memWrite_shows (P : Response → Prop) (addr v : Byte) (s : State) : Shows P s (memWrite addr v s).state :=
  busWrite_shows P _ s

theorem memRead1_shows (P : Response → Prop) (addr : Byte) (s : State) : Shows P s (memRead1 addr s).state :=
  Access.andThen_shows (busWrite_shows P _ s) fun _ t =>
    Access.andThen_shows (State.call_shows P _ t) fun b _ => .ok b.1 rfl

theorem memRead2_shows (P : Response → Prop) (addr : Byte) (s : State) : Shows P s (memRead2 addr s).state :=
  Access.andThen_shows (busWrite_shows P _ s) fun _ t => State.call_shows P _ t

theorem rangeStep_shows (P : Response → Prop) (range : Byte) (s : State) : Shows P s (rangeStep range s).state :=
  Access.andThen_shows (memRead1_shows P _ s) fun _ t =>
    Access.andThen_shows (memWrite_shows P _ _ t) fun _ _ => .ok () rfl

/-! ### Typed responses -/

/-- The response fits an operation whose result type is `k` (R12): it is not `illegal`, and an `ok` value has that type
and, where it is signed, lies in its range. -/
def Response.Typed (k : ResultKind) (r : Response) : Prop :=
  r ≠ .illegal ∧ ∀ v, r = .ok v → v.kind = k ∧ ∀ n, v = .int16 n → -32768 ≤ n ∧ n ≤ 32767

theorem Response.typed_fail (k : ResultKind) (sig : FailSig) : (Response.fail sig).Typed k := by
  simp [Response.Typed]

/-- A value that is not a signed integer has no range to keep to. -/
theorem Response.typed_ok {v : Value} (hv : v.kind ≠ .int16) : (Response.ok v).Typed v.kind := by
  refine ⟨nofun, ?_⟩
  rintro _ ⟨⟩
  refine ⟨rfl, ?_⟩
  rintro n rfl
  exact absurd rfl hv

theorem le16s_range (b0 b1 : Byte) : -32768 ≤ le16s b0 b1 ∧ le16s b0 b1 ≤ 32767 :=
  ⟨BitVec.le_toInt (lePattern b0 b1), Int.lt_add_one_iff.mp (BitVec.toInt_lt (x := lePattern b0 b1))⟩

theorem Response.typed_le16s (b0 b1 : Byte) : (Response.ok (.int16 (le16s b0 b1))).Typed .int16 := by
  refine ⟨nofun, ?_⟩
  rintro _ ⟨⟩
  refine ⟨rfl, ?_⟩
  rintro _ ⟨⟩
  exact le16s_range b0 b1

theorem lateResponse_typed (policy : InitLateFail) (sig : FailSig) : (lateResponse policy sig).Typed .bool := by
  cases policy with
  | propagate => exact Response.typed_fail _ sig
  | reportFalse => exact Response.typed_ok nofun

/-! ### The operations -/

theorem readAndRespond_shows_typed {k : ResultKind} (f : Byte → Value) (hf : ∀ b, (Response.ok (f b)).Typed k)
    (addr : Byte) (s : State) : Shows (Response.Typed k) s (readAndRespond addr f s) :=
  Access.orFail_shows (memRead1_shows _ addr s) (Response.typed_fail k) fun b t => .respond (hf b) t

theorem readWordAndRespond_shows_typed (addr : Byte) (s : State) :
    Shows (Response.Typed .int16) s (readWordAndRespond addr s) :=
  Access.orFail_shows (memRead2_shows _ addr s) (Response.typed_fail _) fun b t =>
    .respond (Response.typed_le16s b.1 b.2) t

theorem writeAndRespond_shows_typed (addr v : Byte) (s : State) :
    Shows (Response.Typed .unit) s (writeAndRespond addr v s) :=
  Access.orFail_shows (memWrite_shows _ addr v s) (Response.typed_fail _) fun _ t =>
    .respond (Response.typed_ok (v := .unit) nofun) t

/-- What `initialise` does once its identity read has answered with the byte `id` (R140). -/
def initialiseAfterIdentity (id : Byte) (t : State) : State :=
  if id = identityByte then
    (memWrite (regAddr .POWER_CTL) powerOn t).orLateFail fun _ u =>
      (rangeStep u.cachedRange u).orLateFail fun _ v => v.respond (.ok (.bool true))
  else t.respond (.ok (.bool false))

theorem exec_initialise (s : State) : exec .initialise s =
    .next ((memRead1 (regAddr .DEVID) (s.start .initialise)).orNotThisDevice initialiseAfterIdentity) := rfl

theorem initialise_shows_typed (s : State) : Shows (Response.Typed .bool) s
    ((memRead1 (regAddr .DEVID) s).orNotThisDevice initialiseAfterIdentity) := by
  have bool_typed (b : Bool) : (Response.ok (.bool b)).Typed .bool := Response.typed_ok nofun
  refine Access.orNotThisDevice_shows (memRead1_shows _ _ s) (bool_typed false) fun id t => ?_
  unfold initialiseAfterIdentity
  split
  · exact Access.orLateFail_shows (memWrite_shows _ _ _ t) lateResponse_typed fun _ u =>
      Access.orLateFail_shows (rangeStep_shows _ _ u) lateResponse_typed fun _ v => .respond (bool_typed true) v
  · exact .respond (bool_typed false) t

theorem setRange_shows_typed (range : Byte) (s : State) : Shows (Response.Typed .unit) s
    ((rangeStep range s).orFail fun _ t => t.respond (.ok .unit)) :=
  Access.orFail_shows (rangeStep_shows _ range s) (Response.typed_fail _) fun _ t =>
    .respond (Response.typed_ok (v := .unit) nofun) t

/-- An operation that starts the sequencer and then goes on as `g` does; starting it shows nothing. -/
theorem Shows.exec {P : Response → Prop} {g : State → State} (hg : ∀ s, Shows P s (g s)) {i : Instr} {s : State}
    (hi : exec i s = .next (g (s.start i))) : ∃ t, exec i s = .next t ∧ Shows P s t :=
  ⟨g (s.start i), hi, hg (s.start i)⟩

/-- An operation shows only responses of its own result type. -/
theorem exec_shows_typed (i : Instr) (s : State) :
    ∃ t, exec i s = .next t ∧ Shows (Response.Typed i.resultKind) s t := by
  cases i with
  | initialise => exact Shows.exec initialise_shows_typed (exec_initialise s)
  | setRange range => exact Shows.exec (setRange_shows_typed range) rfl
  | getRange =>
    exact Shows.exec (readAndRespond_shows_typed (fun b => .code2 (rangeOf b)) (fun _ => Response.typed_ok nofun) _) rfl
  | setDataRate rate => exact Shows.exec (writeAndRespond_shows_typed _ rate) rfl
  | getDataRate =>
    exact Shows.exec (readAndRespond_shows_typed (fun b => .code4 (rateOf b)) (fun _ => Response.typed_ok nofun) _) rfl
  | readRegister addr => exact Shows.exec (readAndRespond_shows_typed .byte (fun _ => Response.typed_ok nofun) addr) rfl
  | writeRegister addr value => exact Shows.exec (writeAndRespond_shows_typed addr value) rfl
  | readRegisterWord addr => exact Shows.exec (readWordAndRespond_shows_typed addr) rfl
  | getX => exact Shows.exec (readWordAndRespond_shows_typed _) rfl
  | getY => exact Shows.exec (readWordAndRespond_shows_typed _) rfl
  | getZ => exact Shows.exec (readWordAndRespond_shows_typed _) rfl
  | getDeviceID => exact Shows.exec (readAndRespond_shows_typed .byte (fun _ => Response.typed_ok nofun) _) rfl

/-- Settles O24: every response an operation adds to the trace is typed by the operation's result type. -/
theorem resultTypes : Obligations.ResultTypes := by
  intro i s t r ht hr
  obtain ⟨t', ht', shown⟩ := exec_shows_typed i s
  obtain rfl : t' = t := Host.Outcome.next.inj (ht'.symm.trans ht)
  exact shown.mem_drop hr

end Sys2Proof.Machine
end

section
/-! PROOFS. Failure signals are only passed on (R8, R213): every shared operation commutes with a renaming of the
signals, as long as the free value is not asked. -/

namespace Sys2Proof.Machine

/-! ### Renaming what an access and a response carry -/

section
variable (f : FailSig → FailSig)

/-- A response with its signal renamed. -/
def Response.rename : Response → Response
  | .fail sig => .fail (f sig)
  | r => r

/-- A device with its signal renamed. -/
def RefDevice.rename (d : RefDevice) : RefDevice := { d with silence := f d.silence }

/-- An access with the signals renamed in its outcome and in its state. -/
def Access.rename {α : Type} : Access α → Access α
  | .ok v s => .ok v (s.rename f)
  | .fail sig s => .fail (f sig) (s.rename f)
  | .gone s => .gone (s.rename f)

variable (s : State) (d : RefDevice) (c : BusCall)

/-! ### The state's updates commute with a renaming -/

@[simp] theorem State.rename_device : (s.rename f).device = s.device.map (RefDevice.rename f) := rfl
@[simp] theorem State.rename_cachedRange : (s.rename f).cachedRange = s.cachedRange := rfl
@[simp] theorem State.rename_busByte : (s.rename f).busByte = s.busByte := rfl
@[simp] theorem State.rename_lateFail : (s.rename f).lateFail = s.lateFail := rfl

theorem State.rename_respond (r : Response) : (s.rename f).respond (r.rename f) = (s.respond r).rename f := by
  cases r <;> simp [State.respond, State.rename, Event.rename, Response.rename]

theorem State.rename_hostReset (addr : BusAddr) (range : Byte) :
    (s.rename f).hostReset addr range = (s.hostReset addr range).rename f := by
  simp [State.hostReset, State.rename, Event.rename]

theorem State.rename_issue_none : (s.rename f).issue c none = (s.issue c none).rename f := by
  simp [State.issue, State.rename, Event.rename]

theorem State.rename_settle (o : Offer) :
    (s.rename f).settle c (renameOffer f o) = (s.settle c o).rename f := by
  cases o with
  | ok b0 b1 =>
    have same : Event.rename f (.bus c (some (c.answer (.ok b0 b1)))) = .bus c (some (c.answer (.ok b0 b1))) := by
      rcases c with ⟨_, _⟩ | ⟨_, _ | _⟩ <;> rfl
    simp [State.settle, renameOffer, Access.rename, State.issue, State.advance, State.rename, same]
  | fail sig => simp [State.settle, renameOffer, Access.rename, State.issue, State.rename, Event.rename]

theorem Access.rename_thenReset {α : Type} (x : Access α) (addr : BusAddr) (range : Byte) :
    (x.rename f).thenReset addr range = (x.thenReset addr range).rename f := by
  cases x <;> exact congrArg Access.gone (State.rename_hostReset f _ addr range)

/-! ### The environment's turn -/

theorem RefDevice.rename_acts (l : List OtherAct) : (d.rename f).acts l = (d.acts l).rename f := by
  refine List.foldl_hom (RefDevice.rename f) fun e act => ?_
  cases act <;> rfl

theorem RefDevice.rename_offer : (d.rename f).offer c = renameOffer f (d.offer c) := by
  have same : (d.rename f).hears c = d.hears c := rfl
  unfold RefDevice.offer
  rw [same]
  split <;> rfl

theorem RefDevice.rename_after : (d.rename f).after c = (d.after c).rename f := by
  have same : (d.rename f).hears c = d.hears c := rfl
  unfold RefDevice.after
  rw [same]
  split
  · rcases c with ⟨_, _ | _⟩ | _ <;> rfl
  · rfl

theorem State.rename_turn : (s.rename f).turn = { s.turn with verdict := s.turn.verdict.rename f } := by
  obtain ⟨_, _, _, _, _, _ | ⟨u, us⟩, _, _, _⟩ := s <;> rfl

theorem State.rename_takeTurn : (s.rename f).takeTurn = s.takeTurn.rename f := by
  have device : (s.rename f).takeTurn.device = (s.takeTurn.rename f).device := by
    simp [State.rename_turn, Function.comp_def, RefDevice.rename_acts]
  simp only [State.takeTurn, State.rename, State.mk.injEq, List.map_tail, true_and, and_true]
  exact device

variable {s} in
/-- An attached device answers alike but for its signal. -/
theorem State.rename_behind (hd : s.device ≠ none) : (s.rename f).behind c = (s.behind c).rename f := by
  obtain ⟨d, hd⟩ := Option.ne_none_iff_exists'.mp hd
  have attached : { s.rename f with device := some ((d.rename f).after c) } =
      { s with device := some (d.after c) }.rename f :=
    congrArg (fun e => { s.rename f with device := some e }) (RefDevice.rename_after f d c)
  simp only [State.behind, State.rename_device, hd, Option.map_some, RefDevice.rename_offer, attached,
    State.rename_settle]

end

/-! ### The device stays attached -/

theorem State.settle_device (c : BusCall) (o : Offer) (s : State) : (s.settle c o).state.device = s.device := by
  cases o <;> rfl

theorem State.behind_attached (c : BusCall) {s : State} (hd : s.device ≠ none) :
    (s.behind c).state.device ≠ none := by
  obtain ⟨d, hd⟩ := Option.ne_none_iff_exists'.mp hd
  simp [State.behind, hd, State.settle_device]

theorem Access.thenReset_device {α : Type} (x : Access α) (addr : BusAddr) (range : Byte) :
    (x.thenReset addr range).state.device = x.state.device := by
  cases x <;> rfl

theorem State.takeTurn_attached {s : State} (hd : s.device ≠ none) : s.takeTurn.device ≠ none := by
  simpa using hd

theorem State.call_attached (c : BusCall) {s : State} (hd : s.device ≠ none) : (s.call c).state.device ≠ none := by
  have taken := State.takeTurn_attached hd
  unfold State.call
  cases s.turn.verdict with
  | behind => exact State.behind_attached c taken
  | answer o => rwa [State.settle_device]
  | never => exact taken
  | resetBefore addr range => exact taken
  | resetDuring addr range => exact taken
  | resetAfter offer addr range =>
    cases offer with
    | none => rw [Access.thenReset_device]; exact State.behind_attached c taken
    | some o => rwa [Access.thenReset_device, State.settle_device]

/-! ### One transaction commutes with a renaming -/

/-- The free value answers none of the next `n` transactions: a device is attached, or the script has that many turns
left and none of them leaves the answer to what stands behind the port. -/
def Answerable (n : Nat) (s : State) : Prop :=
  s.device ≠ none ∨ ((∀ u ∈ s.script, u.fixed = true) ∧ n ≤ s.script.length)

theorem Answerable.mono {m n : Nat} {s : State} (h : Answerable n s) (hmn : m ≤ n) : Answerable m s :=
  h.imp_right fun ⟨fixed, long⟩ => ⟨fixed, hmn.trans long⟩

/-- A turn that leaves the answer to what stands behind the port finds a device there. -/
theorem Answerable.attached {n : Nat} {s : State} (h : Answerable (n + 1) s) (hu : s.turn.fixed = false) :
    s.device ≠ none := by
  rcases h with h | ⟨fixed, long⟩
  · exact h
  · obtain ⟨u, us, hs⟩ := List.exists_cons_of_length_pos (Nat.zero_lt_of_lt long)
    have hturn : s.turn = u := by simp [State.turn, hs]
    rw [hturn, fixed u (by simp [hs])] at hu
    cases hu

theorem Answerable.call_ok {n : Nat} {c : BusCall} {s t : State} {v : Byte × Byte} (h : Answerable (n + 1) s)
    (hc : s.call c = .ok v t) : Answerable n t := by
  rcases h with h | ⟨fixed, long⟩
  · have := State.call_attached c h
    rw [hc] at this
    exact .inl this
  · obtain ⟨u, hu, rfl⟩ := State.call_ok hc
    refine .inr ⟨fun u' hu' => fixed u' (List.mem_of_mem_tail ?_), ?_⟩
    · simpa [hu.script] using hu'
    · simpa [hu.script] using Nat.le_sub_one_of_lt long

theorem State.rename_call (f : FailSig → FailSig) (c : BusCall) {s : State} (h : Answerable 1 s) :
    (s.rename f).call c = (s.call c).rename f := by
  have behind (hu : s.turn.fixed = false) :=
    State.rename_behind f c (State.takeTurn_attached (h.attached hu))
  unfold State.call
  rw [State.rename_turn, State.rename_takeTurn]
  cases hv : s.turn.verdict with
  | behind => exact behind (by simp [Turn.fixed, hv])
  | answer o => exact State.rename_settle f _ c o
  | never => exact congrArg Access.gone (State.rename_issue_none f _ c)
  | resetBefore addr range => exact congrArg Access.gone (State.rename_hostReset f _ addr range)
  | resetDuring addr range =>
    simp only [Verdict.rename, Access.rename, State.rename_issue_none, State.rename_hostReset]
  | resetAfter offer addr range =>
    cases offer with
    | none =>
      have hb := behind (by simp [Turn.fixed, hv])
      simp only [Verdict.rename, Option.map_none, hb, Access.rename_thenReset]
    | some o => simp only [Verdict.rename, Option.map_some, State.rename_settle, Access.rename_thenReset]

/-! ### The shared operations -/

/-- The access commutes with a renaming and takes at most `n` transactions, where the free value is not asked. -/
structure PassesOn (f : FailSig → FailSig) {α : Type} (n : Nat) (p : State → Access α) : Prop where
  renames : ∀ {s}, Answerable n s → p (s.rename f) = (p s).rename f
  leaves : ∀ {m s v t}, Answerable (m + n) s → p s = .ok v t → Answerable m t

/-- The rest of an operation commutes with a renaming, where the free value is not asked within `n` transactions. -/
def EndsAlike (f : FailSig → FailSig) (n : Nat) (g : State → State) : Prop :=
  ∀ s, Answerable n s → g (s.rename f) = (g s).rename f

section
variable {f : FailSig → FailSig} {α β : Type} {m n : Nat} {p : State → Access α}

theorem PassesOn.call (c : State → BusCall) (hc : ∀ s, c (s.rename f) = c s) :
    PassesOn f 1 fun s => s.call (c s) where
  renames {s} h := by rw [hc]; exact State.rename_call f (c s) h
  leaves h ht := h.call_ok ht

theorem PassesOn.pure (v : α) : PassesOn f 0 (.ok v) where
  renames _ := rfl
  leaves h ht := by cases ht; exact h

theorem PassesOn.andThen {k : α → State → Access β} (hp : PassesOn f n p) (hk : ∀ v, PassesOn f m (k v)) :
    PassesOn f (m + n) fun s => (p s).andThen k where
  renames {s} h := by
    rw [hp.renames (h.mono (Nat.le_add_left n m))]
    cases hs : p s with
    | ok v t => exact (hk v).renames (hp.leaves h hs)
    | fail sig t => rfl
    | gone t => rfl
  leaves h ht := by
    obtain ⟨v, u, hu, ht⟩ := Access.andThen_eq_ok ht
    exact (hk v).leaves (hp.leaves (by rwa [Nat.add_assoc]) hu) ht

theorem EndsAlike.respond (r : Response) (hr : r.rename f = r) : EndsAlike f 0 (·.respond r) := fun s _ => by
  simpa only [hr] using State.rename_respond f s r

theorem EndsAlike.orRespond {answer : InitLateFail → FailSig → Response} {k : α → State → State}
    (hp : PassesOn f n p) (ha : ∀ policy sig, answer policy (f sig) = (answer policy sig).rename f)
    (hk : ∀ v, EndsAlike f m (k v)) : EndsAlike f (m + n) fun s => (p s).orRespond answer k := fun s h => by
  simp only [hp.renames (h.mono (Nat.le_add_left n m))]
  cases hs : p s with
  | ok v t => exact hk v t (hp.leaves h hs)
  | fail sig t =>
    simp only [Access.rename, Access.orRespond, State.rename_lateFail, ha, State.rename_respond]
  | gone t => rfl

theorem EndsAlike.orFail {k : α → State → State} (hp : PassesOn f n p) (hk : ∀ v, EndsAlike f m (k v)) :
    EndsAlike f (m + n) fun s => (p s).orFail k := by
  simp only [Access.orFail_eq]
  exact EndsAlike.orRespond hp (fun _ _ => rfl) hk

/-- The identity read of `initialise` drops the signal (R214). -/
theorem EndsAlike.orNotThisDevice {k : α → State → State} (hp : PassesOn f n p) (hk : ∀ v, EndsAlike f m (k v)) :
    EndsAlike f (m + n) fun s => (p s).orNotThisDevice k := by
  simp only [Access.orNotThisDevice_eq]
  exact EndsAlike.orRespond hp (fun _ _ => rfl) hk

theorem lateResponse_rename (policy : InitLateFail) (sig : FailSig) :
    lateResponse policy (f sig) = (lateResponse policy sig).rename f := by
  cases policy <;> rfl

theorem EndsAlike.orLateFail {k : α → State → State} (hp : PassesOn f n p) (hk : ∀ v, EndsAlike f m (k v)) :
    EndsAlike f (m + n) fun s => (p s).orLateFail k := by
  simp only [Access.orLateFail_eq]
  exact EndsAlike.orRespond hp lateResponse_rename hk

end

section
variable (f : FailSig → FailSig)

theorem busWrite_passesOn (p : Payload) : PassesOn f 1 (busWrite p) :=
  (PassesOn.call (fun s => .write s.busByte p) fun _ => rfl).andThen fun _ => .pure ()

theorem busRead1_passesOn : PassesOn f 1 busRead1 :=
  (PassesOn.call (fun s => .read s.busByte .one) fun _ => rfl).andThen fun b => .pure b.1

theorem busRead2_passesOn : PassesOn f 1 busRead2 :=
  PassesOn.call (fun s => .read s.busByte .two) fun _ => rfl

theorem memWrite_passesOn (addr v : Byte) : PassesOn f 1 (memWrite addr v) := busWrite_passesOn f (.two addr v)

theorem memRead1_passesOn (addr : Byte) : PassesOn f 2 (memRead1 addr) :=
  (busWrite_passesOn f (.one addr)).andThen fun _ => busRead1_passesOn f

theorem memRead2_passesOn (addr : Byte) : PassesOn f 2 (memRead2 addr) :=
  (busWrite_passesOn f (.one addr)).andThen fun _ => busRead2_passesOn f

theorem setCachedRange_passesOn (range : Byte) : PassesOn f 0 fun s => .ok () (s.setCachedRange range) where
  renames _ := rfl
  leaves h ht := by cases ht; exact h

theorem rangeStep_passesOn (range : Byte) : PassesOn f 3 (rangeStep range) :=
  (memRead1_passesOn f _).andThen fun old =>
    (memWrite_passesOn f _ (dataFormatCompose old range)).andThen fun _ => setCachedRange_passesOn f range

/-! ### The operations -/

theorem readAndRespond_endsAlike (addr : Byte) (g : Byte → Value) : EndsAlike f 2 (readAndRespond addr g) :=
  EndsAlike.orFail (memRead1_passesOn f addr) fun v => .respond (.ok (g v)) rfl

theorem readWordAndRespond_endsAlike (addr : Byte) : EndsAlike f 2 (readWordAndRespond addr) :=
  EndsAlike.orFail (memRead2_passesOn f addr) fun b => .respond (.ok (.int16 (le16s b.1 b.2))) rfl

theorem writeAndRespond_endsAlike (addr v : Byte) : EndsAlike f 1 (writeAndRespond addr v) :=
  EndsAlike.orFail (memWrite_passesOn f addr v) fun _ => .respond (.ok .unit) rfl

/-- The range-setting step of `initialise` takes its range from the state, which a renaming leaves alone. -/
theorem cachedRangeStep_passesOn : PassesOn f 3 fun s => rangeStep s.cachedRange s where
  renames {s} h := (rangeStep_passesOn f s.cachedRange).renames h
  leaves {_ s _ _} h ht := (rangeStep_passesOn f s.cachedRange).leaves h ht

/-- `t` is the state after the operation, and the renamed `t` is the state after it from the renamed state. -/
def RunsAlike (i : Instr) (s : State) : Prop :=
  ∃ t, exec i s = .next t ∧ exec i (s.rename f) = .next (t.rename f)

variable {f} in
/-- An operation that starts the sequencer and then goes on as `g` does. -/
theorem EndsAlike.runsAlike {n : Nat} {i : Instr} {g : State → State} (hg : EndsAlike f n g)
    (hi : ∀ s, exec i s = .next (g (s.start i))) {s : State} (h : Answerable n s) : RunsAlike f i s :=
  ⟨g (s.start i), hi s, (hi (s.rename f)).trans (congrArg Host.Outcome.next (hg (s.start i) h))⟩

theorem initialiseAfterIdentity_endsAlike (id : Byte) : EndsAlike f 4 (initialiseAfterIdentity id) := by
  unfold initialiseAfterIdentity
  split
  · exact EndsAlike.orLateFail (memWrite_passesOn f _ _) fun _ =>
      EndsAlike.orLateFail (cachedRangeStep_passesOn f) fun _ => .respond _ rfl
  · exact fun s h => EndsAlike.respond _ rfl s (h.mono (Nat.zero_le 4))

theorem exec_runsAlike (i : Instr) {s : State} (h : Answerable 6 s) : RunsAlike f i s := by
  have h1 : Answerable 1 s := h.mono (by decide)
  have h2 : Answerable 2 s := h.mono (by decide)
  have h3 : Answerable 3 s := h.mono (by decide)
  cases i with
  | initialise =>
    exact (EndsAlike.orNotThisDevice (memRead1_passesOn f _) (initialiseAfterIdentity_endsAlike f)).runsAlike
      exec_initialise h
  | setRange range =>
    exact (EndsAlike.orFail (rangeStep_passesOn f range) fun _ => .respond (.ok .unit) rfl).runsAlike (fun _ => rfl) h3
  | getRange => exact (readAndRespond_endsAlike f _ _).runsAlike (fun _ => rfl) h2
  | setDataRate rate => exact (writeAndRespond_endsAlike f _ rate).runsAlike (fun _ => rfl) h1
  | getDataRate => exact (readAndRespond_endsAlike f _ _).runsAlike (fun _ => rfl) h2
  | readRegister addr => exact (readAndRespond_endsAlike f addr _).runsAlike (fun _ => rfl) h2
  | writeRegister addr value => exact (writeAndRespond_endsAlike f addr value).runsAlike (fun _ => rfl) h1
  | readRegisterWord addr => exact (readWordAndRespond_endsAlike f addr).runsAlike (fun _ => rfl) h2
  | getX => exact (readWordAndRespond_endsAlike f _).runsAlike (fun _ => rfl) h2
  | getY => exact (readWordAndRespond_endsAlike f _).runsAlike (fun _ => rfl) h2
  | getZ => exact (readWordAndRespond_endsAlike f _).runsAlike (fun _ => rfl) h2
  | getDeviceID => exact (readAndRespond_endsAlike f _ _).runsAlike (fun _ => rfl) h2

end

/-- Settles O44: each transaction commutes with the renaming, and no operation takes more than six. -/
theorem signalsAreOnlyPassedOn : Obligations.SignalsAreOnlyPassedOn := by
  intro f i s t answered ht
  obtain ⟨t', ht', renamed⟩ := exec_runsAlike f i (s := s) answered
  obtain rfl : t' = t := Host.Outcome.next.inj (ht'.symm.trans ht)
  exact renamed

end Sys2Proof.Machine
end

section
/-! PROOFS. The sequencer of R24, transaction by transaction, does what the meanings of the family files do: how the
pseudocode's sequencing is a chain of single transactions, and how the table follows the chain from each position. -/

namespace Sys2Proof.Machine

/-! ### An operation as a chain of transactions -/

section
variable (answer : InitLateFail → FailSig → Response) {α β : Type}

@[simp] theorem Access.orRespond_ok (v : α) (s : State) (k : α → State → State) :
    (Access.ok v s).orRespond answer k = k v s := rfl
@[simp] theorem Access.orRespond_fail (sig : FailSig) (s : State) (k : α → State → State) :
    (Access.fail sig s).orRespond answer k = s.respond (answer s.lateFail sig) := rfl
@[simp] theorem Access.orRespond_gone (s : State) (k : α → State → State) :
    (Access.gone s).orRespond answer k = s := rfl

/-- A `?` around two accesses in sequence is a `?` around each. -/
theorem Access.orRespond_andThen (x : Access α) (k : α → State → Access β) (g : β → State → State) :
    (x.andThen k).orRespond answer g = x.orRespond answer fun v t => (k v t).orRespond answer g := by
  cases x <;> rfl

theorem memWrite_orRespond (addr v : Byte) (s : State) (g : Unit → State → State) :
    (memWrite addr v s).orRespond answer g =
      (s.call (.write s.busByte (.two addr v))).orRespond answer fun _ => g () :=
  Access.orRespond_andThen answer _ _ g

theorem memRead1_orRespond (addr : Byte) (s : State) (g : Byte → State → State) :
    (memRead1 addr s).orRespond answer g =
      (s.call (.write s.busByte (.one addr))).orRespond answer fun _ t =>
        (t.call (.read t.busByte .one)).orRespond answer fun b => g b.1 := by
  simp only [memRead1, busWrite, busRead1, Access.orRespond_andThen, Access.orRespond_ok]

theorem memRead2_orRespond (addr : Byte) (s : State) (g : Byte × Byte → State → State) :
    (memRead2 addr s).orRespond answer g =
      (s.call (.write s.busByte (.one addr))).orRespond answer fun _ t =>
        (t.call (.read t.busByte .two)).orRespond answer g := by
  simp only [memRead2, busWrite, busRead2, Access.orRespond_andThen, Access.orRespond_ok]

theorem rangeStep_orRespond (range : Byte) (s : State) (g : Unit → State → State) :
    (rangeStep range s).orRespond answer g =
      (s.call (.write s.busByte (.one (regAddr .DATA_FORMAT)))).orRespond answer fun _ t =>
        (t.call (.read t.busByte .one)).orRespond answer fun b u =>
          (u.call (.write u.busByte (.two (regAddr .DATA_FORMAT) (dataFormatCompose b.1 range)))).orRespond answer
            fun _ v => g () (v.setCachedRange range) := by
  simp only [rangeStep, Access.orRespond_andThen, memRead1_orRespond, memWrite_orRespond, Access.orRespond_ok]

end

/-! ### A position of the sequencer follows one transaction -/

/-- The sequencer after a transaction that left it with the byte `held`. -/
def Seq.onward (q : Seq) (held : Byte) : Seq := { q with pos := q.pos + 1, held := held }

/-- From the position `q`, with `cached` in the cache, the sequencer run for `n` transactions does what `g` does. -/
def Follows (n : Nat) (q : Seq) (cached : Byte) (g : State → State) : Prop :=
  ∀ s : State, s.seq = some q → s.cachedRange = cached → g s = runSequencer n s

/-- The table of the operation `i`, from its first position, does what `g` does. -/
def Tabled (i : Instr) (g : State → State) : Prop :=
  ∀ cached : Byte, Follows (fullCount i) ⟨i, 0, 0x00#8⟩ cached g

section
variable {n : Nat} {q : Seq} {cached : Byte} {c : Byte → BusCall} {k : Byte × Byte → State → State}

/-- One transaction: the table plans it, answers its failure alike, and after an `ok` closes alike or goes on alike. -/
theorem Follows.call {answer : InitLateFail → FailSig → Response}
    (plan : ∀ bus, q.plan bus cached = some (c bus))
    (fails : ∀ policy sig, q.failsWith policy sig = answer policy sig)
    (closes : ∀ v r t, q.closes v.1 v.2 = some r → t.cachedRange = cached → k v t = (q.commits t).respond (.ok r))
    (goesOn : ∀ v bus, q.closes v.1 v.2 = none → Follows n (q.onward ((c bus).keeps v.1 q.held)) cached (k v)) :
    Follows (n + 1) q cached fun s => (s.call (c s.busByte)).orRespond answer k := by
  intro s hq hcached
  dsimp only
  rw [runSequencer_at hq (hcached ▸ plan s.busByte)]
  cases hcall : s.call (c s.busByte) with
  | fail sig t => simp only [Access.orRespond_fail, fails]
  | gone t => rfl
  | ok v t =>
    obtain ⟨-, hrange, -, hseq⟩ := State.call_ok_fields hcall
    rw [hcached] at hrange
    rw [hq] at hseq
    cases hclose : q.closes v.1 v.2 with
    | some r => simpa only [Access.orRespond_ok, hclose] using closes v r t hclose hrange
    | none => simpa only [Access.orRespond_ok, hclose] using goesOn v _ hclose t hseq hrange

/-- An operation other than `initialise` answers every failure with the signal (R213). -/
theorem Seq.failsWith_of_ne (hi : q.instr ≠ .initialise) (policy : InitLateFail) (sig : FailSig) :
    q.failsWith policy sig = .fail sig := by
  simp [Seq.failsWith, hi]

/-- An operation other than `initialise` closes at its last transaction alone. -/
theorem Seq.closes_of_ne (hi : q.instr ≠ .initialise) (b0 b1 : Byte) :
    q.closes b0 b1 = if q.pos + 1 = fullCount q.instr then some (finalValue q.instr b0 b1) else none := by
  simp [Seq.closes, hi]

/-- The last transaction of an operation other than `initialise`. -/
theorem Follows.last (hi : q.instr ≠ .initialise) (hpos : q.pos + 1 = fullCount q.instr)
    (plan : ∀ bus, q.plan bus cached = some (c bus))
    (ends : ∀ v t, k v t = (q.commits t).respond (.ok (finalValue q.instr v.1 v.2))) :
    Follows (n + 1) q cached fun s => (s.call (c s.busByte)).orFail k := by
  simp only [Access.orFail_eq]
  refine Follows.call plan (Seq.failsWith_of_ne hi) (fun v r t h _ => ?_) fun v bus h => ?_
  · obtain rfl : finalValue q.instr v.1 v.2 = r := by simpa [Seq.closes_of_ne hi, hpos] using h
    exact ends v t
  · simp [Seq.closes_of_ne hi, hpos] at h

/-- An earlier transaction of an operation other than `initialise`. -/
theorem Follows.earlier (hi : q.instr ≠ .initialise) (hpos : q.pos + 1 ≠ fullCount q.instr)
    (plan : ∀ bus, q.plan bus cached = some (c bus))
    (goesOn : ∀ v bus, Follows n (q.onward ((c bus).keeps v.1 q.held)) cached (k v)) :
    Follows (n + 1) q cached fun s => (s.call (c s.busByte)).orFail k := by
  simp only [Access.orFail_eq]
  refine Follows.call plan (Seq.failsWith_of_ne hi) (fun v r t h _ => ?_) fun v bus _ => goesOn v bus
  simp [Seq.closes_of_ne hi, hpos] at h

/-- Only `setRange` commits anything to the cache (R22). -/
theorem Seq.commits_of_ne (hi : ∀ range, q.instr ≠ .setRange range) (s : State) : q.commits s = s := by
  unfold Seq.commits
  split
  · next range h => exact absurd h (hi range)
  · rfl

end

/-- A short operation is neither `initialise` nor `setRange`, the two with an ending of their own. -/
theorem ne_of_fullCount_lt {i : Instr} (h : fullCount i < 3) :
    i ≠ .initialise ∧ ∀ range, i ≠ .setRange range := by
  constructor
  · rintro rfl
    exact absurd h (by decide)
  · rintro range rfl
    exact Nat.lt_irrefl 3 h

/-! ### The operations that select and read -/

/-- A select frame, a read, and a response made from the bytes read: what `readAndRespond` and `readWordAndRespond`
share. -/
def selectThenRead (addr : Byte) (len : ReadLen) (f : Byte → Byte → Value) (s : State) : State :=
  (s.call (.write s.busByte (.one addr))).orFail fun _ t =>
    (t.call (.read t.busByte len)).orFail fun b u => u.respond (.ok (f b.1 b.2))

theorem readAndRespond_eq (addr : Byte) (f : Byte → Value) :
    readAndRespond addr f = selectThenRead addr .one fun b0 _ => f b0 := by
  funext s
  simp only [readAndRespond, selectThenRead, Access.orFail_eq, memRead1_orRespond]

theorem readWordAndRespond_eq (addr : Byte) :
    readWordAndRespond addr = selectThenRead addr .two fun b0 b1 => .int16 (le16s b0 b1) := by
  funext s
  simp only [readWordAndRespond, selectThenRead, Access.orFail_eq, memRead2_orRespond]

section
variable {i : Instr} {addr : Byte} {len : ReadLen}

theorem selectThenRead_tabled
    (plan : ∀ bus cached held, planOf bus cached held i = [.write bus (.one addr), .read bus len]) :
    Tabled i (selectThenRead addr len (finalValue i)) := by
  have count : fullCount i = 2 := by rw [← planOf_length 0 0 0 i, plan]; rfl
  obtain ⟨notInit, notSet⟩ := ne_of_fullCount_lt (i := i) (by omega)
  intro cached
  rw [count]
  refine Follows.earlier (c := fun bus => .write bus (.one addr)) notInit (by simp [count])
    (fun bus => by simp [Seq.plan, plan]) fun v bus => ?_
  refine Follows.last (c := fun bus => .read bus len) notInit (by simp [Seq.onward, count])
    (fun bus => by simp [Seq.plan, Seq.onward, plan]) fun v t => ?_
  rw [Seq.commits_of_ne notSet]
  rfl

theorem readAndRespond_tabled {f : Byte → Value}
    (plan : ∀ bus cached held, planOf bus cached held i = [.write bus (.one addr), .read bus .one])
    (value : finalValue i = fun b0 _ => f b0) : Tabled i (readAndRespond addr f) := by
  rw [readAndRespond_eq, ← value]
  exact selectThenRead_tabled plan

theorem readWordAndRespond_tabled
    (plan : ∀ bus cached held, planOf bus cached held i = [.write bus (.one addr), .read bus .two])
    (value : finalValue i = fun b0 b1 => .int16 (le16s b0 b1)) : Tabled i (readWordAndRespond addr) := by
  rw [readWordAndRespond_eq, ← value]
  exact selectThenRead_tabled plan

end

/-! ### The operations that write -/

theorem writeAndRespond_eq (addr v : Byte) (s : State) :
    writeAndRespond addr v s =
      (s.call (.write s.busByte (.two addr v))).orFail fun _ t => t.respond (.ok .unit) := by
  simp only [writeAndRespond, Access.orFail_eq, memWrite_orRespond]

theorem writeAndRespond_tabled {i : Instr} {addr v : Byte}
    (plan : ∀ bus cached held, planOf bus cached held i = [.write bus (.two addr v)])
    (value : finalValue i = fun _ _ => .unit) : Tabled i (writeAndRespond addr v) := by
  have count : fullCount i = 1 := by rw [← planOf_length 0 0 0 i, plan]; rfl
  obtain ⟨notInit, notSet⟩ := ne_of_fullCount_lt (i := i) (by omega)
  intro cached s
  rw [count, writeAndRespond_eq]
  refine Follows.last (c := fun bus => .write bus (.two addr v)) notInit (by simp [count])
    (fun bus => by simp [Seq.plan, plan]) (fun v t => ?_) s
  rw [Seq.commits_of_ne notSet, value]

/-- The range-setting step as the whole of an operation (R150). -/
theorem setRange_tabled (range : Byte) :
    Tabled (.setRange range) fun s => (rangeStep range s).orFail fun _ t => t.respond (.ok .unit) := by
  intro cached
  simp only [Access.orFail_eq, rangeStep_orRespond]
  refine Follows.earlier (c := fun bus => .write bus (.one (regAddr .DATA_FORMAT))) nofun nofun (fun _ => rfl)
    fun _ _ => ?_
  refine Follows.earlier (c := fun bus => .read bus .one) nofun nofun (fun _ => rfl) fun old _ => ?_
  exact Follows.last (c := fun bus => .write bus (.two (regAddr .DATA_FORMAT) (dataFormatCompose old.1 range)))
    nofun rfl (fun _ => rfl) fun _ _ => rfl

/-! ### `initialise` -/

/-- A transaction of `initialise` between its identity read and its last: a failure there is a late one (R215). -/
theorem Follows.late {n pos : Nat} {held cached : Byte} {c : Byte → BusCall} {k : Byte × Byte → State → State}
    (low : 2 ≤ pos) (high : pos < 5) (plan : ∀ bus, Seq.plan bus cached ⟨.initialise, pos, held⟩ = some (c bus))
    (goesOn : ∀ v bus, Follows n ⟨.initialise, pos + 1, (c bus).keeps v.1 held⟩ cached (k v)) :
    Follows (n + 1) ⟨.initialise, pos, held⟩ cached fun s => (s.call (c s.busByte)).orRespond lateResponse k := by
  refine Follows.call plan (fun policy sig => ?_) (fun v r t h _ => ?_) fun v bus _ => goesOn v bus
  · rw [Seq.failsWith, if_pos rfl, if_neg (Nat.not_lt.mpr low)]
  · have notIdentity : pos ≠ 1 := by omega
    have notLast : pos ≠ 5 := by omega
    simp [Seq.closes, fullCount, notIdentity, notLast] at h

/-- The range-setting step at the end of `initialise`, with the cached range: writing it to the cache again changes
nothing. -/
theorem cachedRangeStep_follows (held cached : Byte) :
    Follows 3 ⟨.initialise, 3, held⟩ cached fun s =>
      (rangeStep s.cachedRange s).orLateFail fun _ t => t.respond (.ok (.bool true)) := by
  suffices h : Follows 3 ⟨.initialise, 3, held⟩ cached fun s =>
      (rangeStep cached s).orLateFail fun _ t => t.respond (.ok (.bool true)) by
    intro s hq hcached
    simpa only [hcached] using h s hq hcached
  simp only [Access.orLateFail_eq, rangeStep_orRespond]
  refine Follows.late (c := fun bus => .write bus (.one (regAddr .DATA_FORMAT))) (by decide) (by decide) (fun _ => rfl)
    fun _ _ => ?_
  refine Follows.late (c := fun bus => .read bus .one) (by decide) (by decide) (fun _ => rfl) fun old _ => ?_
  refine Follows.call (c := fun bus => .write bus (.two (regAddr .DATA_FORMAT) (dataFormatCompose old.1 cached)))
    (fun _ => rfl) (fun _ _ => rfl) (fun v r t h hcached => ?_) fun v bus h => ?_
  · obtain rfl : .bool true = r := by simpa [Seq.closes, fullCount, finalValue] using h
    subst hcached
    rfl
  · simp [Seq.closes, fullCount] at h

/-- What follows an identity read that matched. -/
theorem identified_follows (held cached : Byte) :
    Follows 4 ⟨.initialise, 2, held⟩ cached (initialiseAfterIdentity identityByte) := by
  unfold initialiseAfterIdentity
  simp only [if_true, Access.orLateFail_eq (memWrite _ _ _), memWrite_orRespond]
  exact Follows.late (c := fun bus => .write bus (.two (regAddr .POWER_CTL) powerOn)) (by decide) (by decide)
    (fun _ => rfl) fun _ _ => cachedRangeStep_follows _ cached

/-- The identity read, and what follows it (R140). -/
theorem initialise_tabled :
    Tabled .initialise fun s => (memRead1 (regAddr .DEVID) s).orNotThisDevice initialiseAfterIdentity := by
  intro cached
  simp only [Access.orNotThisDevice_eq, memRead1_orRespond]
  refine Follows.call (c := fun bus => .write bus (.one (regAddr .DEVID))) (fun _ => rfl) (fun _ _ => rfl)
    (fun v r t h _ => by simp [Seq.closes, fullCount] at h) fun _ _ _ => ?_
  refine Follows.call (c := fun bus => .read bus .one) (fun _ => rfl) (fun _ _ => rfl)
    (fun id r t h _ => ?_) fun id _ h => ?_
  · obtain ⟨wrong, rfl⟩ : id.1 ≠ identityByte ∧ .bool false = r := by
      simpa [Seq.closes, Seq.onward, fullCount] using h
    simp only [initialiseAfterIdentity, if_neg wrong]
    rfl
  · have right : id.1 = identityByte := by simpa [Seq.closes, Seq.onward, fullCount] using h
    rw [right]
    exact identified_follows _ cached

/-! ### Every operation -/

theorem exec_tabled (i : Instr) : ∃ g, Tabled i g ∧ ∀ s, exec i s = .next (g (s.start i)) := by
  cases i with
  | initialise => exact ⟨_, initialise_tabled, exec_initialise⟩
  | setRange range => exact ⟨_, setRange_tabled range, fun _ => rfl⟩
  | getRange => exact ⟨_, readAndRespond_tabled (fun _ _ _ => rfl) rfl, fun _ => rfl⟩
  | setDataRate rate => exact ⟨_, writeAndRespond_tabled (fun _ _ _ => rfl) rfl, fun _ => rfl⟩
  | getDataRate => exact ⟨_, readAndRespond_tabled (fun _ _ _ => rfl) rfl, fun _ => rfl⟩
  | readRegister addr => exact ⟨_, readAndRespond_tabled (fun _ _ _ => rfl) rfl, fun _ => rfl⟩
  | writeRegister addr value => exact ⟨_, writeAndRespond_tabled (fun _ _ _ => rfl) rfl, fun _ => rfl⟩
  | readRegisterWord addr => exact ⟨_, readWordAndRespond_tabled (fun _ _ _ => rfl) rfl, fun _ => rfl⟩
  | getX => exact ⟨_, readWordAndRespond_tabled (fun _ _ _ => rfl) rfl, fun _ => rfl⟩
  | getY => exact ⟨_, readWordAndRespond_tabled (fun _ _ _ => rfl) rfl, fun _ => rfl⟩
  | getZ => exact ⟨_, readWordAndRespond_tabled (fun _ _ _ => rfl) rfl, fun _ => rfl⟩
  | getDeviceID => exact ⟨_, readAndRespond_tabled (fun _ _ _ => rfl) rfl, fun _ => rfl⟩

/-- Settles O26: an operation's meaning is a chain of transactions that its table follows position by position. -/
theorem sequencerRefinesEveryOperation : Obligations.SequencerRefinesEveryOperation := by
  intro i s
  obtain ⟨g, tabled, hg⟩ := exec_tabled i
  rw [hg, tabled s.cachedRange (s.start i) rfl rfl]

end Sys2Proof.Machine
end

section
/-! PROOFS. What an operation can do to the block and its events, said once (`Ended`, `exec_ended`), by induction on the
sequencer; and what the statements of spec/10_state.md follow from it. -/

namespace Sys2Proof.Machine

/-! ### Transactions alone -/

/-- `t` is `s` after transactions of one operation alone: the block's fields are as they were, the sequencer is at the
same operation, and the events added are transactions. -/
structure OnBus (s t : State) : Prop where
  kept : Kept s t
  cachedRange : t.cachedRange = s.cachedRange
  running : t.seq.map (·.instr) = s.seq.map (·.instr)
  script : t.script <:+ s.script
  trace : ∃ bus, t.trace = s.trace ++ bus ∧ ∀ e ∈ bus, e.isBus = true

theorem Kept.trans {s t u : State} (hst : Kept s t) (htu : Kept t u) : Kept s u :=
  ⟨htu.busAddr.trans hst.busAddr, htu.lateFail.trans hst.lateFail, htu.inbox.trans hst.inbox⟩

theorem OnBus.trans {s t u : State} (hst : OnBus s t) (htu : OnBus t u) : OnBus s u := by
  obtain ⟨bus, ht, hbus⟩ := hst.trace
  obtain ⟨later, hu, hlater⟩ := htu.trace
  refine ⟨hst.kept.trans htu.kept, htu.cachedRange.trans hst.cachedRange, htu.running.trans hst.running,
    htu.script.trans hst.script, bus ++ later, by rw [hu, ht, List.append_assoc], fun e he => ?_⟩
  exact (List.mem_append.mp he).elim (hbus e) (hlater e)

theorem OnBus.refl (s : State) : OnBus s s := ⟨⟨rfl, rfl, rfl⟩, rfl, rfl, List.suffix_refl _, [], by simp⟩

theorem OnBus.undisturbed {s t : State} (h : OnBus s t) (hs : s.Undisturbed) : t.Undisturbed :=
  fun u hu => hs u (h.script.subset hu)

theorem EnvMoved.onBus {s t : State} (h : EnvMoved s t) : OnBus s t :=
  ⟨⟨h.busAddr, h.lateFail, h.inbox⟩, h.cachedRange, by rw [h.seq], h.script ▸ List.tail_suffix _, [],
    by simp [h.trace]⟩

theorem OnBus.issue (s : State) (c : BusCall) (a : Option Answer) : OnBus s (s.issue c a) :=
  ⟨⟨rfl, rfl, rfl⟩, rfl, rfl, List.suffix_refl _, [.bus c a], rfl, by simp [Event.isBus]⟩

theorem OnBus.advance (s : State) (c : BusCall) (b0 : Byte) : OnBus s (s.advance c b0) :=
  ⟨⟨rfl, rfl, rfl⟩, rfl, by simp [Function.comp_def], List.suffix_refl _, [], by simp⟩

/-- A turn that resets is one of the script's. -/
theorem State.disturbed_of_resets {s : State} (h : s.turn.resets = true) : ¬ s.Undisturbed := by
  intro calm
  unfold State.turn at h
  split at h
  · next u us hs => simp [calm u (by simp [hs])] at h
  · cases h

theorem State.call_ok_onBus {s t : State} {c : BusCall} {v : Byte × Byte} (h : s.call c = .ok v t) : OnBus s t := by
  obtain ⟨u, hu, rfl⟩ := State.call_ok h
  exact hu.onBus.trans ((OnBus.issue u c _).trans (OnBus.advance _ c _))

theorem State.call_fail_onBus {s t : State} {c : BusCall} {sig : FailSig} (h : s.call c = .fail sig t) : OnBus s t := by
  obtain ⟨u, hu, rfl⟩ := State.call_fail h
  exact hu.onBus.trans (OnBus.issue u c _)

/-- A transaction that is not answered leaves the block waiting at it, unless a reset came. -/
theorem State.call_gone_onBus {s t : State} {c : BusCall} (h : s.call c = .gone t) :
    OnBus s t ∨ ∃ u addr range, OnBus s u ∧ ¬ s.Undisturbed ∧ t = u.hostReset addr range := by
  obtain ⟨u, hu, rfl | ⟨addr, range, hr, rfl⟩ | ⟨a, addr, range, hr, -, rfl⟩⟩ := State.call_gone h
  · exact .inl (hu.onBus.trans (OnBus.issue u c _))
  · exact .inr ⟨u, addr, range, hu.onBus, State.disturbed_of_resets hr, rfl⟩
  · exact .inr ⟨_, addr, range, hu.onBus.trans (OnBus.issue u c a), State.disturbed_of_resets hr, rfl⟩

/-! ### How an operation comes out -/

/-- `t` is one of the states the operation `i`, started in `s`, can come out in. -/
inductive Ended (i : Instr) (s : State) : State → Prop
  /-- it has no response yet -/
  | waits {t : State} (moved : OnBus s t) : Ended i s t
  /-- it ended after a transaction answered `ok` -/
  | completes {u : State} {q : Seq} {b0 b1 : Byte} {v : Value} (moved : OnBus s u) (instr : q.instr = i)
      (closes : q.closes b0 b1 = some v) : Ended i s ((q.commits u).respond (.ok v))
  /-- it ended after a failure -/
  | fails {u : State} {q : Seq} {sig : FailSig} (moved : OnBus s u) (instr : q.instr = i) :
      Ended i s (u.respond (q.failsWith u.lateFail sig))
  /-- a reset abandoned it -/
  | abandoned {u : State} {addr : BusAddr} {range : Byte} (moved : OnBus s u) (disturbed : ¬ s.Undisturbed) :
      Ended i s (u.hostReset addr range)

theorem Ended.after {i : Instr} {s t u : State} (hst : OnBus s t) (h : Ended i t u) : Ended i s u := by
  cases h with
  | waits moved => exact .waits (hst.trans moved)
  | completes moved instr closes => exact .completes (hst.trans moved) instr closes
  | fails moved instr => exact .fails (hst.trans moved) instr
  | abandoned moved disturbed => exact .abandoned (hst.trans moved) fun calm => disturbed (hst.undisturbed calm)

theorem runSequencer_ended (n : Nat) {i : Instr} {s : State} (hs : s.seq.map (·.instr) = some i) :
    Ended i s (runSequencer n s) := by
  induction n generalizing s with
  | zero => exact .waits (.refl s)
  | succ n ih =>
    obtain ⟨q, hq, hi⟩ := Option.map_eq_some_iff.mp hs
    cases hc : q.plan s.busByte s.cachedRange with
    | none =>
      simp only [runSequencer, hq, hc]
      exact .waits (.refl s)
    | some c =>
      rw [runSequencer_at hq hc]
      cases hcall : s.call c with
      | gone t =>
        obtain moved | ⟨u, addr, range, moved, disturbed, rfl⟩ := State.call_gone_onBus hcall
        · exact .waits moved
        · exact .abandoned moved disturbed
      | fail sig t => exact .fails (State.call_fail_onBus hcall) hi
      | ok v t =>
        have moved := State.call_ok_onBus hcall
        cases hclose : q.closes v.1 v.2 with
        | some r => simpa only [hclose] using Ended.completes moved hi hclose
        | none => simpa only [hclose] using Ended.after moved (ih (moved.running.trans hs))

/-- Everything an operation can do, from the state in which it starts. -/
theorem exec_ended {i : Instr} {s t : State} (h : exec i s = .next t) : Ended i (s.start i) t := by
  rw [sequencerRefinesEveryOperation i s] at h
  cases h
  exact runSequencer_ended _ rfl

theorem Kept.start (i : Instr) (s : State) : Kept s (s.start i) := ⟨rfl, rfl, rfl⟩

/-! ### What an operation writes -/

theorem Seq.commits_kept (q : Seq) (s : State) : Kept s (q.commits s) := by
  unfold Seq.commits
  split <;> exact ⟨rfl, rfl, rfl⟩

theorem Seq.commits_trace (q : Seq) (s : State) : (q.commits s).trace = s.trace := by
  unfold Seq.commits
  split <;> rfl

theorem Kept.respond {s t : State} (h : Kept s t) (r : Response) : Kept s (t.respond r) :=
  ⟨h.busAddr, h.lateFail, h.inbox⟩

theorem Ended.kept {i : Instr} {s t : State} (h : Ended i s t) (calm : s.Undisturbed) : Kept s t := by
  cases h with
  | waits moved => exact moved.kept
  | completes moved => exact (moved.kept.trans (Seq.commits_kept _ _)).respond _
  | fails moved => exact moved.kept.respond _
  | abandoned _ disturbed => exact absurd calm disturbed

/-- Settles O20: no way an operation comes out, but for a reset, writes those fields. -/
theorem operationsKeepBusAddr : Obligations.OperationsKeepBusAddr := fun i s _ calm ht =>
  (Kept.start i s).trans ((exec_ended ht).kept calm)

/-- Only a reset and a `setRange` that completes write the cache. -/
theorem Ended.cachedRange_of_ne {i : Instr} {s t : State} (h : Ended i s t) (calm : s.Undisturbed)
    (hi : ∀ range, i ≠ .setRange range) : t.cachedRange = s.cachedRange := by
  cases h with
  | waits moved => exact moved.cachedRange
  | completes moved instr =>
    rw [Seq.commits_of_ne (by rwa [instr])]
    exact moved.cachedRange
  | fails moved => exact moved.cachedRange
  | abandoned _ disturbed => exact absurd calm disturbed

/-- No transaction is a response. -/
theorem OnBus.response_not_mem {s t : State} (h : OnBus s t) (r : Response) :
    .response r ∉ t.trace.drop s.trace.length := by
  obtain ⟨bus, ht, hbus⟩ := h.trace
  rw [ht, List.drop_left]
  intro hr
  cases hbus _ hr

/-- An event after the transactions comes last among what was added. -/
theorem OnBus.drop_append {s t : State} (h : OnBus s t) (e : Event) :
    (t.trace ++ [e]).drop s.trace.length = t.trace.drop s.trace.length ++ [e] := by
  obtain ⟨bus, ht, -⟩ := h.trace
  rw [ht, List.append_assoc, List.drop_left, List.drop_left]

theorem Ended.setRange_cachedRange {range : Byte} {s t : State} (h : Ended (.setRange range) s t)
    (calm : s.Undisturbed) :
    t.cachedRange = if .response (.ok .unit) ∈ t.trace.drop s.trace.length then range else s.cachedRange := by
  cases h with
  | waits moved => rw [if_neg (moved.response_not_mem _), moved.cachedRange]
  | @completes u q b0 b1 v moved instr closes =>
    have unit : v = .unit := by
      rw [Seq.closes_of_ne (by simp [instr]), instr] at closes
      split at closes <;> cases closes
      rfl
    simp [unit, Seq.commits, instr, moved.drop_append]
  | @fails u q sig moved instr =>
    have signal : q.failsWith u.lateFail sig = .fail sig := Seq.failsWith_of_ne (by simp [instr]) _ _
    simp [signal, moved.drop_append, moved.response_not_mem, moved.cachedRange]
  | abandoned _ disturbed => exact absurd calm disturbed

/-- Settles O21: the cache after each way an operation comes out. -/
theorem onlySetRangeWritesTheCache : Obligations.OnlySetRangeWritesTheCache := by
  intro i s t calm ht
  have ended := exec_ended ht
  refine ⟨?_, fun hi => ended.cachedRange_of_ne calm hi⟩
  rintro range rfl
  exact ended.setRange_cachedRange calm

/-! ### The history of events -/

@[simp] theorem historyOf_append (trace : List Event) (e : Event) :
    historyOf (trace ++ [e]) = (historyOf trace).see e := by
  simp [historyOf]

theorem History.see_of_isBus (h : History) {e : Event} (he : e.isBus = true) : h.see e = h := by
  cases e with
  | bus _ _ => rfl
  | reset _ _ => cases he
  | command _ => cases he
  | response _ => cases he

theorem History.foldl_see_of_isBus (h : History) {bus : List Event} (hbus : ∀ e ∈ bus, e.isBus = true) :
    bus.foldl History.see h = h := by
  induction bus with
  | nil => rfl
  | cons e bus ih =>
    rw [List.foldl_cons, h.see_of_isBus (hbus e (by simp)), ih fun e he => hbus e (by simp [he])]

/-- Transactions leave the history as it was. -/
theorem OnBus.history {s t : State} (h : OnBus s t) : historyOf t.trace = historyOf s.trace := by
  obtain ⟨bus, ht, hbus⟩ := h.trace
  rw [ht, historyOf, List.foldl_append, History.foldl_see_of_isBus _ hbus]
  rfl

theorem History.completed_busAddr (h : History) (v : Value) : (h.completed v).busAddr = h.busAddr := by
  unfold History.completed
  split <;> rfl

theorem History.completed_running (h : History) (v : Value) : (h.completed v).running = none := by
  unfold History.completed
  split <;> rfl

/-- Only a `setRange` that completes changes the range (R23). -/
theorem History.completed_range_of_ne {h : History} (hi : ∀ range, h.running ≠ some (.setRange range)) (v : Value) :
    (h.completed v).range = h.range := by
  unfold History.completed
  split
  · next range hr => exact absurd hr (hi range)
  all_goals rfl

theorem History.see_response_busAddr (h : History) (r : Response) : (h.see (.response r)).busAddr = h.busAddr := by
  cases r with
  | ok v => exact h.completed_busAddr v
  | fail sig => rfl
  | illegal => rfl

theorem History.see_response_running (h : History) (r : Response) : (h.see (.response r)).running = none := by
  cases r with
  | ok v => exact h.completed_running v
  | fail sig => rfl
  | illegal => rfl

/-! ### The state agrees with its events -/

theorem State.MatchesHistory.hostReset (s : State) (addr : BusAddr) (range : Byte) :
    (s.hostReset addr range).MatchesHistory := by
  constructor <;> simp [History.see]

theorem OnBus.matchesHistory {s t : State} (h : OnBus s t) (hs : s.MatchesHistory) : t.MatchesHistory := by
  obtain ⟨busAddr, cachedRange, running⟩ := hs
  exact ⟨by rw [h.kept.busAddr, h.history, busAddr], by rw [h.cachedRange, h.history, cachedRange],
    by rw [h.running, h.history, running]⟩

/-- A response keeps the agreement where the cache holds what the history says after it. -/
theorem State.MatchesHistory.respond {s : State} {r : Response} (busAddr : s.busAddr = (historyOf s.trace).busAddr)
    (range : s.cachedRange = ((historyOf s.trace).see (.response r)).range) : (s.respond r).MatchesHistory :=
  ⟨by simp [History.see_response_busAddr, busAddr], by simp [range], by simp [History.see_response_running]⟩

/-- What the sequencer commits to the cache is the range in the history after the response (R22, R23). -/
theorem Seq.commits_cachedRange {q : Seq} {s : State} (hs : s.MatchesHistory)
    (running : s.seq.map (·.instr) = some q.instr) (v : Value) :
    (q.commits s).cachedRange = ((historyOf s.trace).completed v).range := by
  rw [hs.running] at running
  by_cases h : ∃ range, q.instr = .setRange range
  · obtain ⟨range, h⟩ := h
    simp [Seq.commits, History.completed, running, h]
  · rw [not_exists] at h
    rw [Seq.commits_of_ne h, History.completed_range_of_ne (by simpa [running] using h), hs.cachedRange]

/-- A response to a failure leaves the range in the history. -/
theorem Seq.failsWith_range {q : Seq} {h : History} (running : h.running = some q.instr) (policy : InitLateFail)
    (sig : FailSig) : (h.see (.response (q.failsWith policy sig))).range = h.range := by
  by_cases hi : q.instr = .initialise
  · cases hr : q.failsWith policy sig with
    | ok v => exact History.completed_range_of_ne (by simp [running, hi]) v
    | fail sig => rfl
    | illegal => rfl
  · rw [Seq.failsWith_of_ne hi]
    rfl

theorem Ended.matchesHistory {i : Instr} {s t : State} (h : Ended i s t) (running : s.seq.map (·.instr) = some i)
    (hs : s.MatchesHistory) : t.MatchesHistory := by
  cases h with
  | waits moved => exact moved.matchesHistory hs
  | @completes u q b0 b1 v moved instr closes =>
    have hu := moved.matchesHistory hs
    have atInstr : u.seq.map (·.instr) = some q.instr := by rw [moved.running, running, instr]
    refine .respond ?_ ?_
    · rw [(q.commits_kept u).busAddr, q.commits_trace, hu.busAddr]
    · rw [q.commits_trace]
      exact q.commits_cachedRange hu atInstr v
  | @fails u q sig moved instr =>
    have hu := moved.matchesHistory hs
    have atInstr : u.seq.map (·.instr) = some q.instr := by rw [moved.running, running, instr]
    refine .respond hu.busAddr ?_
    rw [Seq.failsWith_range (hu.running ▸ atInstr), hu.cachedRange]
  | abandoned => exact .hostReset _ _ _

/-! ### What a step can do -/

theorem runCommand_of_decode {cw : CmdWord} {i : Instr} (hd : decode cw = some i) (s : State) :
    runCommand cw s = exec i s := by
  simp only [runCommand, hd]

theorem runCommand_of_reserved {cw : CmdWord} (hd : decode cw = none) (s : State) :
    runCommand cw s = .next (s.respond .illegal) := by
  simp only [runCommand, hd]

/-- An idle block takes the command presented. -/
theorem step_command {s : State} {cw : CmdWord} {rest : List HostEvent} (idle : s.Idle)
    (presented : s.inbox = .command cw :: rest) : step s = runCommand cw (s.accept cw rest) := by
  simp [step, hostStep, presented, presentCommand, idle]

/-- Everything a step can do: wait for the host, wait at a transaction, take a reset, or take a command, which is
answered `illegal` or runs an operation. -/
theorem step_cases {s t : State} (h : step s = .next t) :
    (s.inbox = [] ∧ t = s) ∨
    (∃ cw rest, s.inbox = .command cw :: rest ∧ ¬ s.Idle ∧ t = s) ∨
    (∃ addr range rest, s.inbox = .reset addr range :: rest ∧ t = { s with inbox := rest }.hostReset addr range) ∨
    (∃ cw rest, s.inbox = .command cw :: rest ∧ s.Idle ∧ decode cw = none ∧
      t = (s.accept cw rest).respond .illegal) ∨
    (∃ cw rest i, s.inbox = .command cw :: rest ∧ s.Idle ∧ decode cw = some i ∧
      exec i (s.accept cw rest) = .next t) := by
  rcases hin : s.inbox with _ | ⟨⟨cw⟩ | ⟨addr, range⟩, rest⟩
  · simp only [step, hostStep, hin] at h
    cases h
    exact .inl ⟨rfl, rfl⟩
  · cases hseq : s.seq with
    | some q =>
      simp only [step, hostStep, hin, presentCommand, hseq] at h
      cases h
      exact .inr (.inl ⟨cw, rest, rfl, by simp [hseq], rfl⟩)
    | none =>
      rw [step_command hseq hin] at h
      cases hd : decode cw with
      | none =>
        rw [runCommand_of_reserved hd] at h
        cases h
        exact .inr (.inr (.inr (.inl ⟨cw, rest, rfl, hseq, hd, rfl⟩)))
      | some i =>
        rw [runCommand_of_decode hd] at h
        exact .inr (.inr (.inr (.inr ⟨cw, rest, i, rfl, hseq, hd, h⟩)))
  · simp only [step, hostStep, hin, presentReset] at h
    cases h
    exact .inr (.inr (.inl ⟨addr, range, rest, rfl, rfl⟩))

/-- A block that has just taken a command agrees with its events once its operation is started. -/
theorem State.MatchesHistory.begin {s : State} (hs : s.MatchesHistory) {cw : CmdWord} {i : Instr}
    (rest : List HostEvent) (hd : decode cw = some i) : ((s.accept cw rest).start i).MatchesHistory :=
  ⟨by simp [History.see, hs.busAddr], by simp [History.see, hs.cachedRange], by simp [History.see, hd]⟩

/-- Settles O27: of all a step can do, only an operation's ending and a reset touch what the history speaks of. -/
theorem stepKeepsHistory : Obligations.StepKeepsHistory := by
  intro s t hs ht
  obtain ⟨-, rfl⟩ | ⟨_, _, -, -, rfl⟩ | ⟨addr, range, rest, -, rfl⟩ | ⟨cw, rest, -, -, -, rfl⟩ |
    ⟨cw, rest, i, -, -, hd, hexec⟩ := step_cases ht
  · exact hs
  · exact hs
  · exact .hostReset _ addr range
  · exact .respond (by simp [History.see, hs.busAddr]) (by simp [History.see, hs.cachedRange])
  · exact (exec_ended hexec).matchesHistory rfl (hs.begin rest hd)

/-! ### The lifecycle across `initialise` -/

/-- A response of `initialise` makes the block live exactly if it is `ok(true)` (R26). -/
theorem History.see_response_initialise {h : History} (hi : h.running = some .initialise) (r : Response) :
    h.see (.response r) = { h with live := h.live || decide (r = .ok (.bool true)), running := none } := by
  cases r <;> simp [History.see, History.completed, hi]

/-- `initialise` commits nothing to the cache, so its response is all there is to its ending. -/
theorem Ended.initialise_of_response {s t : State} {seen : List Event} {r : Response} (h : Ended .initialise s t)
    (ht : t.trace = s.trace ++ seen ++ [.response r]) : ∃ u, OnBus s u ∧ t = u.respond r := by
  cases h with
  | waits moved => exact absurd (by simp [ht]) (moved.response_not_mem r)
  | @completes u q b0 b1 v moved instr closes =>
    rw [Seq.commits_of_ne (by simp [instr])] at ht ⊢
    obtain ⟨-, same⟩ := List.append_inj' ht rfl
    obtain rfl : .ok v = r := by simpa using same
    exact ⟨u, moved, rfl⟩
  | @fails u q sig moved instr =>
    obtain ⟨-, same⟩ := List.append_inj' ht rfl
    obtain rfl : q.failsWith u.lateFail sig = r := by simpa using same
    exact ⟨u, moved, rfl⟩
  | abandoned moved =>
    obtain ⟨-, same⟩ := List.append_inj' ht rfl
    cases same

/-- Settles O30: the response of `initialise` is the one event that can make the block live. -/
theorem lifecycleOfInitialize : Obligations.LifecycleOfInitialize := by
  intro s t rest seen r idle hs presented ht trace
  have hd : decode 0x010000#24 = some .initialise := by decide
  rw [step_command idle presented, runCommand_of_decode hd] at ht
  obtain ⟨u, moved, hu⟩ :=
    (exec_ended ht).initialise_of_response (r := r) (seen := seen) (by simp [trace])
  have history : historyOf t.trace =
      { historyOf s.trace with
        live := (historyOf s.trace).live || decide (r = .ok (.bool true)), running := none } := by
    rw [hu, State.respond_trace, historyOf_append, moved.history,
      History.see_response_initialise (by simp [History.see, hd])]
    simp [History.see]
  constructor
  · rintro rfl
    have range : t.cachedRange = (historyOf s.trace).range := by
      rw [hu, State.respond_cachedRange, moved.cachedRange, ← hs.cachedRange]
      rfl
    simp [history, History.lifecycle, range]
  · intro hr
    simp [history, History.lifecycle, hr]

/-! ### The state right after reset -/

theorem readsFollowSelect_of_no_bus {trace : List Event} (h : ∀ e ∈ trace, e.isBus = false) :
    ReadsFollowSelect trace := by
  rintro before after bus n answer rfl
  have := h (.bus (.read bus n) answer) (by simp)
  cases this

theorem carriesBusAddr_of_no_bus {trace : List Event} (h : ∀ e ∈ trace, e.isBus = false) :
    CarriesBusAddr trace := by
  intro c answer hc
  have := h _ hc
  cases this

/-- Settles O11: the one event is the reset itself, no device is known and the sequencer is empty. -/
theorem resetStateIsSafe : Obligations.ResetStateIsSafe := by
  have noBus : ∀ e ∈ State.reset.trace, e.isBus = false := by simp [State.reset, Event.isBus]
  have safe : State.reset.Safe :=
    { memory := Memory.wf_nil
      seq := nofun
      selects := readsFollowSelect_of_no_bus noBus
      carries := carriesBusAddr_of_no_bus noBus
      matchesHistory := ⟨rfl, rfl, rfl⟩ }
  exact ⟨safe, rfl, rfl, rfl, noBus⟩

end Sys2Proof.Machine
end

section
/-! PROOFS. What an operation does not depend on: a difference between two states that no transaction looks at is
carried through the sequencer, and so through every operation. -/

namespace Sys2Proof.Machine

/-- `R` relates states in which the block does and shows the same: they agree on all that a transaction and the
sequencer's table look at, and every update keeps them related. -/
structure Unseen (R : State → State → Prop) : Prop where
  seq : ∀ {s s'}, R s s' → s'.seq = s.seq
  script : ∀ {s s'}, R s s' → s'.script = s.script
  device : ∀ {s s'}, R s s' → s'.device = s.device
  calls : ∀ {s s'}, R s s' → s'.calls = s.calls
  lateFail : ∀ {s s'}, R s s' → s'.lateFail = s.lateFail
  plan : ∀ {s s' q}, R s s' → s.seq = some q → q.plan s'.busByte s'.cachedRange = q.plan s.busByte s.cachedRange
  takeTurn : ∀ {s s'}, R s s' → R s.takeTurn s'.takeTurn
  setDevice : ∀ {s s'} (d : Option RefDevice), R s s' → R { s with device := d } { s' with device := d }
  issue : ∀ {s s'} c a, R s s' → R (s.issue c a) (s'.issue c a)
  advance : ∀ {s s'} c b0, R s s' → R (s.advance c b0) (s'.advance c b0)
  hostReset : ∀ {s s'} addr range, R s s' → R (s.hostReset addr range) (s'.hostReset addr range)
  setCachedRange : ∀ {s s'} range, R s s' → R (s.setCachedRange range) (s'.setCachedRange range)
  respond : ∀ {s s'} r, R s s' → R (s.respond r) (s'.respond r)

/-- The two accesses come out alike, in related states. -/
inductive Access.Alike {α : Type} (R : State → State → Prop) : Access α → Access α → Prop
  | ok {s s' : State} (v : α) (h : R s s') : Alike R (.ok v s) (.ok v s')
  | fail {s s' : State} (sig : FailSig) (h : R s s') : Alike R (.fail sig s) (.fail sig s')
  | gone {s s' : State} (h : R s s') : Alike R (.gone s) (.gone s')

namespace Unseen
variable {R : State → State → Prop} (hR : Unseen R) {s s' : State}
include hR

theorem settle (c : BusCall) (o : Offer) (h : R s s') : Access.Alike R (s.settle c o) (s'.settle c o) := by
  cases o with
  | ok b0 b1 => exact .ok _ (hR.advance _ _ (hR.issue _ _ h))
  | fail sig => exact .fail _ (hR.issue _ _ h)

theorem behind (c : BusCall) (h : R s s') : Access.Alike R (s.behind c) (s'.behind c) := by
  unfold State.behind
  rw [hR.device h]
  cases s.device with
  | some d => exact hR.settle c _ (hR.setDevice _ h)
  | none =>
    dsimp only
    rw [hR.calls h]
    cases Config.freeAnswer s.calls with
    | some o => exact hR.settle c o h
    | none => exact .gone (hR.issue _ _ h)

theorem thenReset {α : Type} {x x' : Access α} (addr : BusAddr) (range : Byte) (h : Access.Alike R x x') :
    Access.Alike R (x.thenReset addr range) (x'.thenReset addr range) := by
  cases h with
  | ok v h => exact .gone (hR.hostReset _ _ h)
  | fail sig h => exact .gone (hR.hostReset _ _ h)
  | gone h => exact .gone (hR.hostReset _ _ h)

theorem call (c : BusCall) (h : R s s') : Access.Alike R (s.call c) (s'.call c) := by
  have turn : s'.turn = s.turn := by simp only [State.turn, hR.script h]
  have taken := hR.takeTurn h
  unfold State.call
  rw [turn]
  cases s.turn.verdict with
  | behind => exact hR.behind c taken
  | answer o => exact hR.settle c o taken
  | never => exact .gone (hR.issue c none taken)
  | resetBefore addr range => exact .gone (hR.hostReset addr range taken)
  | resetDuring addr range => exact .gone (hR.hostReset addr range (hR.issue c none taken))
  | resetAfter offer addr range =>
    cases offer with
    | none => exact hR.thenReset addr range (hR.behind c taken)
    | some o => exact hR.thenReset addr range (hR.settle c o taken)

theorem commits (q : Seq) (h : R s s') : R (q.commits s) (q.commits s') := by
  unfold Seq.commits
  split
  · exact hR.setCachedRange _ h
  · exact h

theorem runSequencer (n : Nat) (h : R s s') : R (runSequencer n s) (runSequencer n s') := by
  induction n generalizing s s' with
  | zero => exact h
  | succ n ih =>
    cases hq : s.seq with
    | none => simpa only [Machine.runSequencer, hR.seq h, hq] using h
    | some q =>
      have hq' : s'.seq = some q := (hR.seq h).trans hq
      have same := hR.plan h hq
      cases hc : q.plan s.busByte s.cachedRange with
      | none => simpa only [Machine.runSequencer, hq, hq', same, hc] using h
      | some c =>
        rw [runSequencer_at hq hc, runSequencer_at hq' (same.trans hc)]
        have alike := hR.call c h
        generalize s.call c = x, s'.call c = x' at alike ⊢
        cases alike with
        | gone h => exact h
        | fail sig h => simpa only [hR.lateFail h] using hR.respond _ h
        | ok v h =>
          cases hclose : q.closes v.1 v.2 with
          | some r => simpa only [hclose] using hR.respond _ (hR.commits q h)
          | none => simpa only [hclose] using ih h

/-- An operation started in related states comes out in related states. -/
theorem exec {i : Instr} (h : R (s.start i) (s'.start i)) :
    ∃ t t', exec i s = .next t ∧ exec i s' = .next t' ∧ R t t' :=
  ⟨_, _, sequencerRefinesEveryOperation i s, sequencerRefinesEveryOperation i s', hR.runSequencer _ h⟩

end Unseen

/-! ### The cache -/

/-- Only the table of `initialise` names the cached range. -/
theorem Seq.plan_of_ne {q : Seq} (hi : q.instr ≠ .initialise) (bus cached cached' : Byte) :
    q.plan bus cached' = q.plan bus cached := by
  obtain ⟨i, pos, held⟩ := q
  cases i with
  | initialise => exact absurd rfl hi
  | _ => rfl

/-- The states differ at most in the cache, and `initialise` is not at work. -/
def SameButCache (s s' : State) : Prop :=
  s.seq.map (·.instr) ≠ some .initialise ∧ ∃ range, s' = s.setCachedRange range

theorem SameButCache.unseen : Unseen SameButCache where
  seq := by rintro s _ ⟨-, range, rfl⟩; rfl
  script := by rintro s _ ⟨-, range, rfl⟩; rfl
  device := by rintro s _ ⟨-, range, rfl⟩; rfl
  calls := by rintro s _ ⟨-, range, rfl⟩; rfl
  lateFail := by rintro s _ ⟨-, range, rfl⟩; rfl
  plan := by
    rintro s _ q ⟨hi, range, rfl⟩ hq
    exact Seq.plan_of_ne (by simpa [hq] using hi) _ _ _
  takeTurn := by rintro s _ ⟨hi, range, rfl⟩; exact ⟨hi, range, rfl⟩
  setDevice := by rintro s _ d ⟨hi, range, rfl⟩; exact ⟨hi, range, rfl⟩
  issue := by rintro s _ c a ⟨hi, range, rfl⟩; exact ⟨hi, range, rfl⟩
  advance := by
    rintro s _ c b0 ⟨hi, range, rfl⟩
    exact ⟨by simpa [Function.comp_def] using hi, range, rfl⟩
  hostReset := by rintro s _ addr range ⟨-, -, rfl⟩; exact ⟨nofun, range, rfl⟩
  setCachedRange := by rintro s _ range ⟨hi, -, rfl⟩; exact ⟨hi, range, rfl⟩
  respond := by rintro s _ r ⟨-, range, rfl⟩; exact ⟨nofun, range, rfl⟩

/-- Settles O42: another cached range stays unseen through every operation but `initialise`. -/
theorem cacheIsReadByInitializeAlone : Obligations.CacheIsReadByInitializeAlone := by
  intro i s range hi
  have started : SameButCache (s.start i) ({ s with cachedRange := range }.start i) :=
    ⟨by simpa using hi, range, rfl⟩
  obtain ⟨t, _, ht, ht', -, range', rfl⟩ := SameButCache.unseen.exec started
  exact ⟨t, _, ht, ht', rfl, rfl, rfl, rfl⟩

/-! ### The past -/

/-- The state with `past` put before its events. -/
def State.withPast (past : List Event) (s : State) : State := { s with trace := past ++ s.trace }

theorem State.withPast_unseen (past : List Event) : Unseen fun s s' => s' = s.withPast past where
  seq := by rintro s _ rfl; rfl
  script := by rintro s _ rfl; rfl
  device := by rintro s _ rfl; rfl
  calls := by rintro s _ rfl; rfl
  lateFail := by rintro s _ rfl; rfl
  plan := by rintro s _ q rfl -; rfl
  takeTurn := by rintro s _ rfl; rfl
  setDevice := by rintro s _ d rfl; rfl
  issue := by rintro s _ c a rfl; simp [State.issue, State.withPast]
  advance := by rintro s _ c b0 rfl; rfl
  hostReset := by rintro s _ addr range rfl; simp [State.hostReset, State.withPast]
  setCachedRange := by rintro s _ range rfl; rfl
  respond := by rintro s _ r rfl; simp [State.respond, State.withPast]

/-- An operation does after a past what it does after none. -/
theorem exec_withPast (i : Instr) (s : State) :
    ∃ t, exec i s = .next t ∧ ∀ past, exec i (s.withPast past) = .next (t.withPast past) := by
  refine ⟨_, sequencerRefinesEveryOperation i s, fun past => ?_⟩
  obtain ⟨t, _, ht, ht', rfl⟩ := (State.withPast_unseen past).exec (s := s) (s' := s.withPast past) (i := i) rfl
  rw [ht', ← Host.Outcome.next.inj (ht.symm.trans (sequencerRefinesEveryOperation i s))]

/-- Settles O43: both pasts, the state's own and the other, are put before the events of a run with none. -/
theorem thePastGatesNothing : Obligations.ThePastGatesNothing := by
  intro i s past
  obtain ⟨t, -, ht⟩ := exec_withPast i { s with trace := [] }
  refine ⟨t.withPast s.trace, t.trace, ?_, rfl, ?_⟩
  · simpa [State.withPast] using ht s.trace
  · simpa [State.withPast] using ht past

end Sys2Proof.Machine
end

section
/-! PROOFS. What a step runs, and the form of the register contents and of the sequencer that every step keeps. -/

namespace Sys2Proof.Machine

/-! ### The command port -/

theorem decode_packFields (op a b : Byte) : decode (packFields op a b) = decodeFields op a b := by
  simp only [decode, cmdOp_packFields, cmdA_packFields, cmdB_packFields]

theorem decode_encode (i : Instr) : decode (encode i) = some i := by
  cases i <;> exact decode_packFields _ _ _

theorem tableWord_toNat (cw : CmdWord) : tableWord 24 cw.toNat = cw := by
  rw [tableWord, Nat.mod_eq_of_lt cw.isLt, BitVec.ofNat_toNat, BitVec.setWidth_eq]

theorem step_command_decoded {s : State} {cw : CmdWord} {rest : List HostEvent} {i : Instr} (idle : s.Idle)
    (presented : s.inbox = .command cw :: rest) (hd : decode cw = some i) : step s = exec i (s.accept cw rest) := by
  rw [step_command idle presented, runCommand_of_decode hd]

/-- Settles O12: an idle block decodes the word it takes, and the word of `i` decodes to `i`. -/
theorem stepRunsDecodedCommand : Obligations.StepRunsDecodedCommand := by
  refine ⟨fun s cw rest i => step_command_decoded, fun s i => ?_⟩
  rw [State.withFetchWord, tableWord_toNat]
  exact step_command_decoded rfl rfl (decode_encode i)

/-! ### The form of the register contents and of the sequencer -/

theorem fullCount_pos (i : Instr) : 0 < fullCount i := by
  cases i <;> exact Nat.zero_lt_succ _

theorem fullCount_le_six (i : Instr) : fullCount i ≤ 6 := by
  cases i <;> exact Nat.le_of_ble_eq_true rfl

/-- What `Obligations.StepKeepsMemoryForm` says every step keeps. -/
structure State.Formed (s : State) : Prop where
  memory : s.memoryWf
  seq : s.SeqLegal

theorem State.seqLegal_of_idle {s : State} (h : s.Idle) : s.SeqLegal := fun q hq => by
  rw [h] at hq
  cases hq

theorem State.Formed.start {s : State} (h : s.Formed) (i : Instr) : (s.start i).Formed :=
  ⟨h.memory, fun q hq => by cases hq; exact fullCount_pos i⟩

theorem Seq.commits_memory (q : Seq) (s : State) : (q.commits s).memory = s.memory := by
  unfold Seq.commits
  split <;> rfl

/-- An operation that goes on after a transaction has another one. -/
theorem Seq.onward_legal {q : Seq} {b0 b1 : Byte} (h : q.pos < fullCount q.instr) (unclosed : q.closes b0 b1 = none) :
    q.pos + 1 < fullCount q.instr := by
  refine lt_of_le_of_ne h fun last => ?_
  unfold Seq.closes at unclosed
  split at unclosed <;> cases unclosed

/-- A transaction that is not answered leaves the sequencer at it, or a reset has emptied it. -/
theorem State.Formed.call_gone {s t : State} {c : BusCall} (hs : s.Formed) (h : s.call c = .gone t) : t.Formed := by
  obtain ⟨u, hu, rfl | ⟨_, _, -, rfl⟩ | ⟨_, _, _, -, -, rfl⟩⟩ := State.call_gone h
  · exact ⟨hu.memory hs.memory, fun q hq => hs.seq q (hu.seq ▸ hq)⟩
  · exact ⟨hu.memory hs.memory, State.seqLegal_of_idle rfl⟩
  · exact ⟨hu.memory hs.memory, State.seqLegal_of_idle rfl⟩

theorem State.memoryWf.call_fail {s t : State} {c : BusCall} {sig : FailSig} (hs : s.memoryWf)
    (h : s.call c = .fail sig t) : t.memoryWf := by
  obtain ⟨u, hu, rfl⟩ := State.call_fail h
  exact hu.memory hs

theorem State.memoryWf.call_ok {s t : State} {c : BusCall} {v : Byte × Byte} (hs : s.memoryWf)
    (h : s.call c = .ok v t) : t.memoryWf := by
  obtain ⟨u, hu, rfl⟩ := State.call_ok h
  exact hu.memory hs

theorem State.Formed.runSequencer (n : Nat) {s : State} (hs : s.Formed) : (runSequencer n s).Formed := by
  induction n generalizing s with
  | zero => exact hs
  | succ n ih =>
    cases hq : s.seq with
    | none => simpa only [Machine.runSequencer, hq] using hs
    | some q =>
      obtain ⟨c, hc⟩ := (Seq.plan_isSome s.busByte s.cachedRange).mpr (hs.seq q hq)
      rw [runSequencer_at hq hc]
      cases hcall : s.call c with
      | gone t => exact hs.call_gone hcall
      | fail sig t => exact ⟨(hs.memory.call_fail hcall :), State.seqLegal_of_idle rfl⟩
      | ok v t =>
        have memory := hs.memory.call_ok hcall
        cases hclose : q.closes v.1 v.2 with
        | some r =>
          simp only [hclose]
          exact ⟨(congrArg Memory.wf (q.commits_memory t)).mpr memory, State.seqLegal_of_idle rfl⟩
        | none =>
          obtain ⟨-, -, -, hseq⟩ := State.call_ok_fields hcall
          rw [hq] at hseq
          have legal := q.onward_legal (hs.seq q hq) hclose
          simp only [hclose]
          exact ih ⟨memory, fun q' hq' => by cases hseq.symm.trans hq'; exact legal⟩

/-- Settles O29: of all a step can do, an operation moves the sequencer only to a transaction it has. -/
theorem stepKeepsMemoryForm : Obligations.StepKeepsMemoryForm := by
  intro s t memory legal ht
  suffices formed : t.Formed from ⟨formed.memory, formed.seq⟩
  have hs : s.Formed := ⟨memory, legal⟩
  obtain ⟨-, rfl⟩ | ⟨_, _, -, -, rfl⟩ | ⟨addr, range, rest, -, rfl⟩ | ⟨cw, rest, -, -, -, rfl⟩ |
    ⟨cw, rest, i, -, -, -, hexec⟩ := step_cases ht
  · exact hs
  · exact hs
  · exact ⟨memory, State.seqLegal_of_idle rfl⟩
  · exact ⟨memory, State.seqLegal_of_idle rfl⟩
  · rw [sequencerRefinesEveryOperation] at hexec
    cases hexec
    have accepted : (s.accept cw rest).Formed := ⟨memory, legal⟩
    exact (accepted.start i).runSequencer _

end Sys2Proof.Machine
end

section
/-! PROOFS. The numbers that bytes read stand for: the deserializer (R67) and the field functions (R108 to R110). -/

namespace Sys2Proof.Machine

/-! ### The deserializer -/

theorem lePattern_toNat (b0 b1 : Byte) : (lePattern b0 b1).toNat = b1.toNat * 256 + b0.toNat := by
  have fits : b1.toNat <<< 8 < 2 ^ 16 := by rw [Nat.shiftLeft_eq]; omega
  have wide (b : Byte) : b.toNat % 2 ^ 16 = b.toNat := Nat.mod_eq_of_lt (by omega)
  simp only [lePattern, BitVec.toNat_or, BitVec.toNat_shiftLeft, BitVec.toNat_setWidth, wide, Nat.mod_eq_of_lt fits]
  rw [← Nat.shiftLeft_add_eq_or_of_lt b0.isLt, Nat.shiftLeft_eq]

theorem le16s_eq (b0 b1 : Byte) : le16s b0 b1 =
    if b1.toNat * 256 + b0.toNat < 32768 then ((b1.toNat * 256 + b0.toNat : Nat) : Int)
    else ((b1.toNat * 256 + b0.toNat : Nat) : Int) - 65536 := by
  rw [le16s, BitVec.toInt_eq_toNat_cond, lePattern_toNat]
  split <;> split <;> omega

theorem le16s_injective {b0 b1 c0 c1 : Byte} (h : le16s b0 b1 = le16s c0 c1) : b0 = c0 ∧ b1 = c1 := by
  have pattern := congrArg BitVec.toNat (BitVec.toInt_inj.mp h)
  rw [lePattern_toNat, lePattern_toNat] at pattern
  constructor <;> apply BitVec.eq_of_toNat_eq <;> omega

/-- Settles O9: the pattern's number is `256 * b1 + b0`. -/
theorem deserializerIsSignedLittleEndian : Obligations.DeserializerIsSignedLittleEndian :=
  ⟨le16s_eq, le16s_range, fun _ _ _ _ => le16s_injective, by decide, by decide, by decide⟩

/-! ### The field functions -/

theorem dataFormatCompose_fullRes (old r : Byte) : dataFormatCompose old r &&& 0x08#8 = 0x08#8 := by
  simp only [dataFormatCompose, fullRes]
  ext k
  simp +contextual

/-- A range code leaves the high four bits alone (R108). -/
theorem dataFormatCompose_high (old : Byte) {r : Byte} (hr : r.toNat ≤ 3) :
    (dataFormatCompose old r).extractLsb' 4 4 = old.extractLsb' 4 4 := by
  have low (k : Nat) : r.getLsbD (4 + k) = false := by
    refine Nat.testBit_lt_two_pow ?_
    calc r.toNat < 2 ^ 4 := by omega
      _ ≤ 2 ^ (4 + k) := Nat.pow_le_pow_right two_pos (Nat.le_add_right 4 k)
  have masks : ∀ k < 4, (0xF0#8).getLsbD (4 + k) = true ∧ (0x08#8).getLsbD (4 + k) = false := by decide
  ext k hk
  simp [dataFormatCompose, fullRes, low k, masks k hk]

/-- The low two bits are the operand's, whatever it is (R109). -/
theorem rangeOf_dataFormatCompose (old r : Byte) : rangeOf (dataFormatCompose old r) = r.extractLsb' 0 2 := by
  ext k hk
  interval_cases k <;> simp [rangeOf, dataFormatCompose, fullRes]

theorem rateOf_eq (v : Byte) : rateOf v = v.extractLsb' 0 4 := by
  ext k hk
  interval_cases k <;> simp [rateOf]

/-- A rate code has nothing in the high four bits (R38). -/
theorem extractLsb'_high_of_rate {c : Byte} (hc : c.toNat ≤ 15) : c.extractLsb' 4 4 = 0#4 := by
  have shifted : c.toNat / 2 ^ 4 = 0 := Nat.div_eq_of_lt (by omega)
  apply BitVec.eq_of_toNat_eq
  simp only [BitVec.extractLsb'_toNat, Nat.shiftRight_eq_div_pow, shifted, Nat.zero_mod, BitVec.toNat_ofNat]

end Sys2Proof.Machine
end

section
/-! PROOFS. What the block does depends on its own fields and the transport's answers alone: a turn may be replaced by
one that has the answer written out (`SameBlock.call`), and so may every turn of an operation. -/

namespace Sys2Proof.Machine

/-! ### The same block in two environments -/

/-- The same block, whatever its environment: `SameSeen`, and the same strap. -/
structure SameBlock (s s' : State) : Prop extends SameSeen s s' where
  lateFail : s'.lateFail = s.lateFail

namespace SameBlock
variable {s s' : State} (h : SameBlock s s')
include h

theorem busByte : s'.busByte = s.busByte := by simp [State.busByte, h.busAddr]

theorem takeTurn : SameBlock s.takeTurn s'.takeTurn := ⟨⟨h.busAddr, h.cachedRange, h.seq, h.trace⟩, h.lateFail⟩

theorem setDevice (d : Option RefDevice) : SameBlock { s with device := d } s' :=
  ⟨⟨h.busAddr, h.cachedRange, h.seq, h.trace⟩, h.lateFail⟩

theorem issue (c : BusCall) (a : Option Answer) : SameBlock (s.issue c a) (s'.issue c a) :=
  ⟨⟨h.busAddr, h.cachedRange, h.seq, by simp [h.trace]⟩, h.lateFail⟩

theorem advance (c : BusCall) (b0 : Byte) : SameBlock (s.advance c b0) (s'.advance c b0) :=
  ⟨⟨h.busAddr, h.cachedRange, by simp [h.seq], h.trace⟩, h.lateFail⟩

theorem respond (r : Response) : SameBlock (s.respond r) (s'.respond r) :=
  ⟨⟨h.busAddr, h.cachedRange, rfl, by simp [h.trace]⟩, h.lateFail⟩

theorem hostReset (addr : BusAddr) (range : Byte) : SameBlock (s.hostReset addr range) (s'.hostReset addr range) :=
  ⟨⟨rfl, rfl, rfl, by simp [h.trace]⟩, h.lateFail⟩

theorem commits (q : Seq) : SameBlock (q.commits s) (q.commits s') := by
  unfold Seq.commits
  split
  · exact ⟨⟨h.busAddr, rfl, h.seq, h.trace⟩, h.lateFail⟩
  · exact h

theorem settle (c : BusCall) (o : Offer) : Access.Alike SameBlock (s.settle c o) (s'.settle c o) := by
  cases o with
  | ok b0 b1 => exact .ok _ ((h.issue c _).advance c b0)
  | fail sig => exact .fail sig (h.issue c _)

end SameBlock

theorem Access.Alike.thenReset {α : Type} {x x' : Access α} (addr : BusAddr) (range : Byte)
    (h : Access.Alike SameBlock x x') : Access.Alike SameBlock (x.thenReset addr range) (x'.thenReset addr range) := by
  cases h with
  | ok v h => exact .gone (h.hostReset addr range)
  | fail sig h => exact .gone (h.hostReset addr range)
  | gone h => exact .gone (h.hostReset addr range)

/-! ### The answer of what stands behind the port, written out in the script -/

/-- What the device or the free value offers for the transaction; `none` where it is not answered. -/
def State.offered (c : BusCall) (s : State) : Option Offer :=
  match s.device with
  | some d => some (d.offer c)
  | none => Config.freeAnswer s.calls

/-- The transaction with the offer made for it, if there is one. -/
def State.served (c : BusCall) (offer : Option Offer) (s : State) : Access (Byte × Byte) :=
  match offer with
  | some o => s.settle c o
  | none => .gone (s.issue c none)

/-- The verdict with the offer of what stands behind the port written out. -/
def Verdict.written (offer : Option Offer) : Verdict → Verdict
  | .behind =>
    match offer with
    | some o => .answer o
    | none => .never
  | .resetAfter none addr range =>
    match offer with
    | some o => .resetAfter (some o) addr range
    | none => .resetDuring addr range
  | v => v

theorem Verdict.written_fixed (offer : Option Offer) (v : Verdict) (others : List OtherAct) :
    Turn.fixed ⟨others, v.written offer⟩ = true := by
  cases v with
  | behind => cases offer <;> rfl
  | resetAfter o _ _ => cases o <;> cases offer <;> rfl
  | _ => rfl

theorem Turn.written_of_fixed {u : Turn} (h : u.fixed = true) (offer : Option Offer) :
    u.verdict.written offer = u.verdict := by
  obtain ⟨others, v⟩ := u
  cases v with
  | behind => cases h
  | resetAfter o _ _ =>
    cases o with
    | none => cases h
    | some o => rfl
  | _ => rfl

theorem SameBlock.behind {s s' : State} (h : SameBlock s s') (c : BusCall) :
    Access.Alike SameBlock (s.behind c) (s'.served c (s.offered c)) := by
  unfold State.behind State.offered
  cases s.device with
  | some d => exact (h.setDevice _).settle c _
  | none =>
    generalize Config.freeAnswer s.calls = offered
    cases offered with
    | some o => exact h.settle c o
    | none => exact .gone (h.issue c none)

/-- A turn with the answer written out does to the block what the turn itself does. -/
theorem SameBlock.call {s s' : State} (h : SameBlock s s') {c : BusCall}
    (hv : s'.turn.verdict = s.turn.verdict.written (s.takeTurn.offered c)) :
    Access.Alike SameBlock (s.call c) (s'.call c) := by
  have taken := h.takeTurn
  have behind := taken.behind c
  unfold State.call
  rw [hv]
  generalize s.takeTurn.offered c = offered at behind ⊢
  cases s.turn.verdict with
  | behind => cases offered <;> exact behind
  | answer o => exact taken.settle c o
  | never => exact .gone (taken.issue c none)
  | resetBefore addr range => exact .gone (taken.hostReset addr range)
  | resetDuring addr range => exact .gone ((taken.issue c none).hostReset addr range)
  | resetAfter offer addr range =>
    cases offer with
    | some o => exact (taken.settle c o).thenReset addr range
    | none => cases offered <;> exact behind.thenReset addr range

/-! ### Two runs of the sequencer -/

/-- The transaction that is next, if there is one. -/
def State.next (s : State) : Option BusCall := s.seq.bind fun q => q.plan s.busByte s.cachedRange

/-- Two blocks that are the same remain so, if the transaction that is next comes out alike and, where it is answered
`ok`, what follows does. -/
theorem SameBlock.runSequencer_succ {n : Nat} {s s' : State} (h : SameBlock s s')
    (next : ∀ c, s.next = some c → Access.Alike SameBlock (s.call c) (s'.call c) ∧
      ∀ v t t', s.call c = .ok v t → s'.call c = .ok v t' → SameBlock t t' →
        SameBlock (runSequencer n t) (runSequencer n t')) :
    SameBlock (runSequencer (n + 1) s) (runSequencer (n + 1) s') := by
  cases hq : s.seq with
  | none => simpa only [runSequencer, h.seq, hq] using h
  | some q =>
    have hq' : s'.seq = some q := h.seq.trans hq
    have samePlan : q.plan s'.busByte s'.cachedRange = q.plan s.busByte s.cachedRange := by
      rw [h.busByte, h.cachedRange]
    cases hc : q.plan s.busByte s.cachedRange with
    | none => simpa only [runSequencer, hq, hq', samePlan, hc] using h
    | some c =>
      rw [runSequencer_at hq hc, runSequencer_at hq' (samePlan.trans hc)]
      obtain ⟨alike, goesOn⟩ := next c (by simp only [State.next, hq, Option.bind_some, hc])
      generalize s.call c = x, s'.call c = x' at alike goesOn ⊢
      cases alike with
      | gone h => exact h
      | fail sig h => simpa only [h.lateFail] using h.respond _
      | ok v h =>
        cases hclose : q.closes v.1 v.2 with
        | some r => simpa only [hclose] using (h.commits q).respond _
        | none => simpa only [hclose] using goesOn v _ _ rfl rfl h

/-- The transport answers the next `n` transactions by the script alone. -/
def State.Scripted (n : Nat) (s : State) : Prop := (∀ u ∈ s.script, u.fixed = true) ∧ n ≤ s.script.length

theorem State.call_ok_script {s t : State} {c : BusCall} {v : Byte × Byte} (h : s.call c = .ok v t) :
    t.script = s.script.tail := by
  obtain ⟨u, hu, rfl⟩ := State.call_ok h
  exact hu.script

theorem State.Scripted.turn_fixed {n : Nat} {s : State} (h : s.Scripted (n + 1)) : s.turn.fixed = true := by
  obtain ⟨u, us, hs⟩ := List.exists_cons_of_length_pos (Nat.zero_lt_of_lt h.2)
  simpa [State.turn, hs] using h.1 u (by simp [hs])

theorem State.Scripted.call_ok {n : Nat} {s t : State} {c : BusCall} {v : Byte × Byte} (h : s.Scripted (n + 1))
    (hc : s.call c = .ok v t) : t.Scripted n := by
  rw [Scripted, State.call_ok_script hc]
  exact ⟨fun u hu => h.1 u (List.mem_of_mem_tail hu), by simpa using Nat.le_sub_one_of_lt h.2⟩

theorem SameBlock.runSequencer_scripted (n : Nat) {s s' : State} (h : SameBlock s s') (script : s'.script = s.script)
    (scripted : s.Scripted n) : SameBlock (runSequencer n s) (runSequencer n s') := by
  induction n generalizing s s' with
  | zero => exact h
  | succ n ih =>
    have turn : s'.turn = s.turn := by rw [State.turn, script, State.turn]
    refine h.runSequencer_succ fun c _ => ⟨h.call ?_, fun v t t' ht ht' same => ih same ?_ (scripted.call_ok ht)⟩
    · rw [turn, Turn.written_of_fixed scripted.turn_fixed]
    · rw [State.call_ok_script ht, State.call_ok_script ht', script]

/-- The script answers by itself, has at most `n` turns, and makes any other such block do what `s` does within `n`
transactions. -/
structure ScriptFor (n : Nat) (s : State) (script : List Turn) : Prop where
  alone : ∀ u ∈ script, u.fixed = true ∧ u.others = []
  short : script.length ≤ n
  same : ∀ s', SameBlock s s' → s'.script = script → SameBlock (runSequencer n s) (runSequencer n s')

theorem ScriptFor.nil {n : Nat} {s : State} (hc : s.next = none) : ScriptFor (n + 1) s [] where
  alone := nofun
  short := Nat.zero_le _
  same s' h _ := h.runSequencer_succ fun c hc' => by cases hc.symm.trans hc'

theorem ScriptFor.cons {n : Nat} {s : State} {c : BusCall} {rest : List Turn} (hc : s.next = some c)
    (alone : ∀ u ∈ rest, u.fixed = true ∧ u.others = []) (short : rest.length ≤ n)
    (goesOn : ∀ v t, s.call c = .ok v t → ScriptFor n t rest) :
    ScriptFor (n + 1) s (⟨[], s.turn.verdict.written (s.takeTurn.offered c)⟩ :: rest) where
  alone := List.forall_mem_cons.mpr ⟨⟨Verdict.written_fixed _ _ _, rfl⟩, alone⟩
  short := Nat.succ_le_succ short
  same s' h script := h.runSequencer_succ fun c' hc' => by
    cases hc.symm.trans hc'
    refine ⟨h.call (by simp [State.turn, script]), fun v t t' ht ht' same => (goesOn v t ht).same t' same ?_⟩
    rw [State.call_ok_script ht', script, List.tail_cons]

theorem ScriptFor.exists (n : Nat) (s : State) : ∃ script, ScriptFor n s script := by
  induction n generalizing s with
  | zero => exact ⟨[], nofun, le_rfl, fun _ h _ => h⟩
  | succ n ih =>
    cases hc : s.next with
    | none => exact ⟨[], .nil hc⟩
    | some c =>
      by_cases answered : ∃ v t, s.call c = .ok v t
      · obtain ⟨v, t, ht⟩ := answered
        obtain ⟨rest, hrest⟩ := ih t
        exact ⟨_, .cons hc hrest.alone hrest.short fun v' t' ht' => by cases ht.symm.trans ht'; exact hrest⟩
      · exact ⟨_, .cons hc (rest := []) nofun (Nat.zero_le n) fun v t ht => absurd ⟨v, t, ht⟩ answered⟩

/-- Settles O40: a script that answers by itself leaves nothing to what stands behind the port. -/
theorem answersDecideTheOperation : Obligations.AnswersDecideTheOperation := by
  intro i s s' t t' busAddr cachedRange lateFail trace script fixed long ht ht'
  rw [sequencerRefinesEveryOperation] at ht ht'
  cases ht
  cases ht'
  have started : SameBlock (s.start i) (s'.start i) := ⟨⟨busAddr, cachedRange, rfl, trace⟩, lateFail⟩
  exact (started.runSequencer_scripted _ script ⟨fixed, (fullCount_le_six i).trans long⟩).toSameSeen

/-- Settles O41: the script has, for each transaction, the answer that it got. -/
theorem scriptsCoverEveryEnvironment : Obligations.ScriptsCoverEveryEnvironment := by
  intro i s
  obtain ⟨script, h⟩ := ScriptFor.exists (fullCount i) (s.start i)
  have started : SameBlock (s.start i) ({ s with script := script, device := none }.start i) :=
    ⟨⟨rfl, rfl, rfl, rfl⟩, rfl⟩
  exact ⟨script, _, _, h.alone, h.short, sequencerRefinesEveryOperation i s, sequencerRefinesEveryOperation i _,
    (h.same _ started rfl).toSameSeen⟩

end Sys2Proof.Machine
end

section
/-! PROOFS. Operations with the reference device of R82 on the bus: a rule per transaction (`DeviceRun.call`), what
each shared body leaves the device with, and the statements about the fixture. -/

namespace Sys2Proof.Machine

/-! ### Transactions with the device alone on the bus -/

/-- `t` is `s` after the transactions `bus` of one operation with the device alone on the bus: the device is now `d`,
and `cached_range` is `range`. -/
structure DeviceRun (s t : State) (d : RefDevice) (bus : List Event) (range : Byte) : Prop where
  kept : Kept s t
  cachedRange : t.cachedRange = range
  alone : t.AloneWith d
  calls : t.calls = s.calls + bus.length
  trace : t.trace = s.trace ++ bus

theorem RefDevice.heard_devAddr (d : RefDevice) (c : BusCall) : (d.heard c).devAddr = d.devAddr := by
  obtain ⟨_, _ | _⟩ | _ := c <;> rfl

section
variable {s t : State} {d : RefDevice} {bus : List Event} {range : Byte}

theorem DeviceRun.start (i : Instr) (h : s.AloneWith d) : DeviceRun s (s.start i) d [] s.cachedRange :=
  ⟨.start i s, rfl, h, rfl, by simp⟩

theorem DeviceRun.setCachedRange (h : DeviceRun s t d bus range) (r : Byte) :
    DeviceRun s (t.setCachedRange r) d bus r :=
  ⟨⟨h.kept.busAddr, h.kept.lateFail, h.kept.inbox⟩, rfl, h.alone, h.calls, h.trace⟩

theorem DeviceRun.respond (h : DeviceRun s t d bus range) (r : Response) :
    DeviceResult s (t.respond r) d bus r range :=
  ⟨h.kept.respond r, h.cachedRange, rfl, h.alone.2.1, h.alone.1, h.calls, by simp [h.trace]⟩

theorem DeviceRun.busByte (h : DeviceRun s t d bus range) : t.busByte = s.busByte := by
  simp [State.busByte, h.kept.busAddr]

/-- The event of a transaction `c` that the device answers. -/
def RefDevice.answers (d : RefDevice) (c : BusCall) : Event :=
  .bus c (some (c.answer (.ok (d.read d.ptr) (d.read (d.ptr + 1)))))

/-- One more transaction: the device hears it and answers `ok`. -/
theorem DeviceRun.call (h : DeviceRun s t d bus range) {c : BusCall} (hc : c.bus = s.busByte) :
    ∃ u, t.call c = .ok (d.read d.ptr, d.read (d.ptr + 1)) u ∧
      DeviceRun s u (d.heard c) (bus ++ [d.answers c]) range := by
  refine ⟨_, State.call_alone c h.alone (hc.trans h.busByte.symm), ?_⟩
  refine ⟨⟨h.kept.busAddr, h.kept.lateFail, h.kept.inbox⟩, h.cachedRange, ?_, ?_, ?_⟩
  · exact ⟨h.alone.1, rfl, (d.heard_devAddr c).trans h.alone.2.2⟩
  · simp [h.calls, Nat.add_assoc]
  · simp [h.trace, RefDevice.answers]

theorem DeviceResult.trace_getLast? {r : Response} (h : DeviceResult s t d bus r range) :
    t.trace.getLast? = some (.response r) := by
  simp [h.trace]

/-- The next operation finds the device alone on the bus again. -/
theorem DeviceResult.alone {e : RefDevice} {r : Response} (h : DeviceResult s t e bus r range) (hs : s.AloneWith d)
    (he : e.devAddr = d.devAddr) : t.AloneWith e :=
  ⟨h.script, h.device, by rw [he, hs.2.2, h.kept.busAddr]⟩

end

/-! ### The register access primitives -/

section
variable {s t : State} {d : RefDevice} {bus : List Event} {range : Byte}

/-- The device after the write frame `{addr, v}` (R82). -/
def RefDevice.stored (d : RefDevice) (addr v : Byte) : RefDevice := { d.write addr v with ptr := addr }

theorem RefDevice.stored_read_same {addr : Byte} (v : Byte) (h : d.cells.wf) : (d.stored addr v).read addr = v :=
  RefDevice.read_write_same addr v h

theorem RefDevice.stored_sameBut (d : RefDevice) (addr v : Byte) : d.SameBut (d.stored addr v) addr :=
  fun _ hb => RefDevice.read_write_other d v hb

theorem RefDevice.stored_wf (addr v : Byte) (h : d.cells.wf) : (d.stored addr v).cells.wf :=
  RefDevice.wf_write addr v h

theorem DeviceRun.memWrite (h : DeviceRun s t d bus range) (addr v : Byte) :
    ∃ u, memWrite addr v t = .ok () u ∧
      DeviceRun s u (d.stored addr v) (bus ++ [s.frame addr v (.ok [])]) range := by
  obtain ⟨u, hu, run⟩ := h.call (c := .write s.busByte (.two addr v)) rfl
  exact ⟨u, by simp [Machine.memWrite, busWrite, h.busByte, hu], run⟩

/-- The select frame moves the pointer. -/
theorem DeviceRun.select (h : DeviceRun s t d bus range) (addr : Byte) :
    ∃ u, busWrite (.one addr) t = .ok () u ∧
      DeviceRun s u { d with ptr := addr } (bus ++ [s.select addr (.ok [])]) range := by
  obtain ⟨u, hu, run⟩ := h.call (c := .write s.busByte (.one addr)) rfl
  exact ⟨u, by simp [busWrite, h.busByte, hu], run⟩

theorem DeviceRun.memRead1 (h : DeviceRun s t d bus range) (addr : Byte) :
    ∃ u, memRead1 addr t = .ok (d.read addr) u ∧
      DeviceRun s u { d with ptr := addr }
        (bus ++ [s.select addr (.ok [])] ++ [s.read1 (.ok [d.read addr])]) range := by
  obtain ⟨m, hm, run⟩ := h.select addr
  obtain ⟨u, hu, run'⟩ := run.call (c := .read s.busByte .one) rfl
  exact ⟨u, by simp [Machine.memRead1, hm, busRead1, run.busByte, hu, RefDevice.read], run'⟩

theorem DeviceRun.memRead2 (h : DeviceRun s t d bus range) (addr : Byte) :
    ∃ u, memRead2 addr t = .ok (d.read addr, d.read (addr + 1)) u ∧
      DeviceRun s u { d with ptr := addr }
        (bus ++ [s.select addr (.ok [])] ++ [s.read2 (.ok [d.read addr, d.read (addr + 1)])]) range := by
  obtain ⟨m, hm, run⟩ := h.select addr
  obtain ⟨u, hu, run'⟩ := run.call (c := .read s.busByte .two) rfl
  exact ⟨u, by simp [Machine.memRead2, hm, busRead2, run.busByte, hu, RefDevice.read], run'⟩

/-- The device after the range-setting step (R150). -/
def RefDevice.ranged (d : RefDevice) (range : Byte) : RefDevice :=
  d.stored (regAddr .DATA_FORMAT) (dataFormatCompose (d.read (regAddr .DATA_FORMAT)) range)

/-- The transactions of the range-setting step, as the device answers them. -/
def State.rangeEvents (s : State) (d : RefDevice) (range : Byte) : List Event :=
  [s.select (regAddr .DATA_FORMAT) (.ok []), s.read1 (.ok [d.read (regAddr .DATA_FORMAT)]),
    s.frame (regAddr .DATA_FORMAT) (dataFormatCompose (d.read (regAddr .DATA_FORMAT)) range) (.ok [])]

theorem DeviceRun.rangeStep (h : DeviceRun s t d bus range) (r : Byte) :
    ∃ u, rangeStep r t = .ok () u ∧ DeviceRun s u (d.ranged r) (bus ++ s.rangeEvents d r) r := by
  obtain ⟨m, hm, run⟩ := h.memRead1 (regAddr .DATA_FORMAT)
  obtain ⟨n, hn, run'⟩ := run.memWrite (regAddr .DATA_FORMAT) (dataFormatCompose (d.read (regAddr .DATA_FORMAT)) r)
  simp only [List.append_assoc] at run'
  exact ⟨n.setCachedRange r, by simp [Machine.rangeStep, hm, hn], run'.setCachedRange r⟩

end

/-! ### The bodies that operations share -/

section
variable {s : State} {d : RefDevice}

theorem readAndRespond_alone (i : Instr) (addr : Byte) (f : Byte → Value) (h : s.AloneWith d) :
    DeviceResult s (readAndRespond addr f (s.start i)) { d with ptr := addr }
      [s.select addr (.ok []), s.read1 (.ok [d.read addr])] (.ok (f (d.read addr))) s.cachedRange := by
  obtain ⟨u, hu, run⟩ := (DeviceRun.start i h).memRead1 addr
  rw [readAndRespond, hu]
  exact run.respond _

theorem readWordAndRespond_alone (i : Instr) (addr : Byte) (h : s.AloneWith d) :
    DeviceResult s (readWordAndRespond addr (s.start i)) { d with ptr := addr }
      [s.select addr (.ok []), s.read2 (.ok [d.read addr, d.read (addr + 1)])]
      (.ok (.int16 (le16s (d.read addr) (d.read (addr + 1))))) s.cachedRange := by
  obtain ⟨u, hu, run⟩ := (DeviceRun.start i h).memRead2 addr
  rw [readWordAndRespond, hu]
  exact run.respond _

theorem writeAndRespond_alone (i : Instr) (addr v : Byte) (h : s.AloneWith d) :
    DeviceResult s (writeAndRespond addr v (s.start i)) (d.stored addr v) [s.frame addr v (.ok [])] (.ok .unit)
      s.cachedRange := by
  obtain ⟨u, hu, run⟩ := (DeviceRun.start i h).memWrite addr v
  rw [writeAndRespond, hu]
  exact run.respond _

theorem exec_setRange_alone (range : Byte) (h : s.AloneWith d) :
    ∃ t, exec (.setRange range) s = .next t ∧
      DeviceResult s t (d.ranged range) (s.rangeEvents d range) (.ok .unit) range := by
  obtain ⟨u, hu, run⟩ := (DeviceRun.start (.setRange range) h).rangeStep range
  exact ⟨u.respond (.ok .unit), by simp [exec, execSetRange, hu], run.respond _⟩

theorem exec_initialise_mismatch_alone (h : s.AloneWith d) (wrong : d.read (regAddr .DEVID) ≠ identityByte) :
    ∃ t, exec .initialise s = .next t ∧
      DeviceResult s t { d with ptr := 0x00#8 } [s.select 0x00#8 (.ok []), s.read1 (.ok [d.read 0x00#8])]
        (.ok (.bool false)) s.cachedRange := by
  obtain ⟨u, hu, run⟩ := (DeviceRun.start .initialise h).memRead1 (regAddr .DEVID)
  refine ⟨u.respond (.ok (.bool false)), ?_, run.respond _⟩
  rw [exec_initialise, hu, Access.orNotThisDevice_ok, initialiseAfterIdentity, if_neg wrong]

theorem exec_initialise_match_alone (h : s.AloneWith d) (right : d.read (regAddr .DEVID) = identityByte) :
    ∃ t, exec .initialise s = .next t ∧
      DeviceResult s t ((d.stored 0x2D#8 0x08#8).ranged s.cachedRange)
        ([s.select 0x00#8 (.ok []), s.read1 (.ok [d.read 0x00#8]), s.frame 0x2D#8 0x08#8 (.ok [])] ++
          s.rangeEvents (d.stored 0x2D#8 0x08#8) s.cachedRange)
        (.ok (.bool true)) s.cachedRange := by
  obtain ⟨u, hu, identity⟩ := (DeviceRun.start .initialise h).memRead1 (regAddr .DEVID)
  obtain ⟨v, hv, power⟩ := identity.memWrite (regAddr .POWER_CTL) powerOn
  obtain ⟨w, hw, range⟩ := power.rangeStep v.cachedRange
  rw [power.cachedRange] at range
  refine ⟨w.respond (.ok (.bool true)), ?_, range.respond _⟩
  rw [exec_initialise, hu, Access.orNotThisDevice_ok, initialiseAfterIdentity, if_pos right, hv,
    Access.orLateFail_ok, hw, Access.orLateFail_ok]

end

/-! ### The statements about the fixture -/

/-- Settles O45: each of the three is a select frame and a read, which the device answers with the cells named. -/
theorem deviceReadsReturnTheCells : Obligations.DeviceReadsReturnTheCells := fun _ _ addr alone =>
  ⟨⟨_, rfl, readAndRespond_alone _ addr _ alone⟩, ⟨_, rfl, readWordAndRespond_alone _ addr alone⟩,
    ⟨_, rfl, readAndRespond_alone _ (regAddr .DEVID) _ alone⟩⟩

/-- Settles O47: both are one write frame, which stores the byte. -/
theorem deviceWritesStoreOneCell : Obligations.DeviceWritesStoreOneCell := by
  intro s d i addr v alone wf hi
  obtain ⟨t, ht, result⟩ : ∃ t, exec i s = .next t ∧
      DeviceResult s t (d.stored addr v) [s.frame addr v (.ok [])] (.ok .unit) s.cachedRange := by
    obtain rfl | ⟨rfl, rfl⟩ := hi
    · exact ⟨_, rfl, writeAndRespond_alone _ addr v alone⟩
    · exact ⟨_, rfl, writeAndRespond_alone _ (regAddr .BW_RATE) v alone⟩
  exact ⟨t, _, ht, result, RefDevice.stored_read_same v wf, d.stored_sameBut addr v, rfl, rfl⟩

/-! ### Round trips -/

theorem RefDevice.ranged_read {d : RefDevice} (range : Byte) (h : d.cells.wf) :
    (d.ranged range).read 0x31#8 = dataFormatCompose (d.read 0x31#8) range :=
  RefDevice.stored_read_same _ h

theorem RefDevice.ranged_sameBut (d : RefDevice) (range : Byte) : d.SameBut (d.ranged range) 0x31#8 :=
  d.stored_sameBut _ _

/-- Settles O48: `getRange` reads back the byte that the range-setting step composed. -/
theorem deviceRangeRoundTrip : Obligations.DeviceRangeRoundTrip := by
  intro s d r alone wf hr
  obtain ⟨t, ht, set⟩ := exec_setRange_alone r alone
  have alone' := set.alone alone rfl
  have got := readAndRespond_alone .getRange (regAddr .DATA_FORMAT) (fun v => .code2 (rangeOf v)) alone'
  have cell := d.ranged_read r wf
  refine ⟨t, d.ranged r, _, ht, alone', set.cachedRange, ?_, ?_, d.ranged_sameBut r, rfl, ?_⟩
  · rw [cell, dataFormatCompose_fullRes]
  · rw [cell, dataFormatCompose_high _ hr]
  · rw [got.trace_getLast?, regAddr, cell, rangeOf_dataFormatCompose]

/-- Settles O49: `getDataRate` reads back the byte that `setDataRate` stored. -/
theorem deviceRateRoundTrip : Obligations.DeviceRateRoundTrip := by
  intro s d c alone wf
  have set := writeAndRespond_alone (.setDataRate c) (regAddr .BW_RATE) c alone
  have alone' := set.alone alone rfl
  have got := readAndRespond_alone .getDataRate (regAddr .BW_RATE) (fun v => .code4 (rateOf v)) alone'
  have cell : (d.stored (regAddr .BW_RATE) c).read (regAddr .BW_RATE) = c := RefDevice.stored_read_same c wf
  refine ⟨_, d.stored (regAddr .BW_RATE) c, _, rfl, alone', d.stored_sameBut _ c, fun hc => ?_, rfl, ?_⟩
  · exact (congrArg _ cell).trans (extractLsb'_high_of_rate hc)
  · rw [got.trace_getLast?, cell, rateOf_eq]

/-- Settles O50: a mismatch ends at the identity read; after a match, the POWER_CTL write leaves DATA_FORMAT to the
range-setting step. -/
theorem deviceInitialize : Obligations.DeviceInitialize := by
  intro s d alone wf
  by_cases right : d.read 0x00#8 = 0xE5#8
  · obtain ⟨t, ht, result⟩ := exec_initialise_match_alone alone right
    have power := d.stored_sameBut 0x2D#8 0x08#8
    have range := (d.stored 0x2D#8 0x08#8).ranged_sameBut s.cachedRange
    refine ⟨t, _, ht, result.device, result.idle, result.cachedRange, fun wrong => absurd right wrong,
      fun _ => ⟨result.trace_getLast?, ?_, ?_, fun b hpower hrange => ?_⟩⟩
    · rw [range _ (by decide), RefDevice.stored_read_same _ wf]
    · rw [RefDevice.ranged_read _ (RefDevice.stored_wf _ _ wf), power _ (by decide)]
      rfl
    · rw [range b hrange, power b hpower]
  · obtain ⟨t, ht, result⟩ := exec_initialise_mismatch_alone alone right
    exact ⟨t, _, ht, result.device, result.idle, result.cachedRange, fun _ => ⟨rfl, result.trace_getLast?⟩,
      fun matched => absurd matched right⟩

/-! ### The device at another bus address -/

/-- Beyond the script nobody but the block acts. -/
theorem State.takeTurn_unscripted {s : State} (script : s.script = []) : s.takeTurn = s := by
  cases s
  simp_all [State.takeTurn, State.turn, RefDevice.acts]

/-- Nobody answers, so the transaction fails with the bus's signal and the device does not change (R82). -/
theorem State.call_elsewhere {s : State} {d : RefDevice} {c : BusCall} (script : s.script = [])
    (device : s.device = some d) (elsewhere : d.devAddr ≠ s.busAddr) (hc : c.bus = s.busByte) :
    s.call c = .fail d.silence (s.issue c (some (.fail d.silence))) := by
  have deaf : d.hears c = false := by
    refine decide_eq_false fun h => elsewhere (BitVec.eq_of_toNat_eq ?_)
    have same := congrArg BitVec.toNat (h.symm.trans hc)
    rwa [State.busByte, BitVec.toNat_setWidth_of_le (by decide), BitVec.toNat_setWidth_of_le (by decide)] at same
  have behind : s.turn.verdict = .behind := by simp [State.turn, script]
  have untouched : { s with device := some d } = s := by rw [← device]
  simp [State.call, behind, State.takeTurn_unscripted script, State.behind, device, RefDevice.offer, RefDevice.after,
    deaf, State.settle, untouched]

theorem planOf_bus {bus cached held : Byte} {i : Instr} {c : BusCall} (h : c ∈ planOf bus cached held i) :
    c.bus = bus := by
  revert c
  cases i <;> simp [planOf, BusCall.bus]

theorem Seq.plan_bus {q : Seq} {bus cached : Byte} {c : BusCall} (h : q.plan bus cached = some c) : c.bus = bus :=
  planOf_bus (List.mem_of_getElem? h)

/-- Settles O51: the first transaction of every operation carries the block's bus address, and fails. -/
theorem deviceElsewhereIsSilent : Obligations.DeviceElsewhereIsSilent := by
  intro s d i script device elsewhere
  obtain ⟨c, hc⟩ := (Seq.plan_isSome (q := ⟨i, 0, 0x00#8⟩) s.busByte s.cachedRange).mpr (fullCount_pos i)
  have fails := State.call_elsewhere (s := s.start i) script device elsewhere (Seq.plan_bus hc)
  have first : Seq.failsWith s.lateFail ⟨i, 0, 0x00#8⟩ d.silence =
      if i = .initialise then .ok (.bool false) else .fail d.silence := by simp [Seq.failsWith]
  obtain ⟨n, hn⟩ := Nat.exists_eq_add_one.mpr (fullCount_pos i)
  refine ⟨_, c, sequencerRefinesEveryOperation i s, ?_⟩
  rw [hn, runSequencer_at (s := s.start i) rfl hc, fails]
  exact ⟨⟨rfl, rfl, rfl⟩, rfl, rfl, device, script, rfl, by simp [first]⟩

end Sys2Proof.Machine
end

section
/-! PROOFS. The command word and the operation it spells determine each other, by the field decoder of R101 and by the
rows of R102 alike. -/

namespace Sys2Proof.Machine

/-! ### Words and their fields -/

theorem packFields_eq_iff {op a b : Byte} {cw : CmdWord} :
    packFields op a b = cw ↔ op = cmdOp cw ∧ a = cmdA cw ∧ b = cmdB cw := by
  constructor
  · rintro rfl
    simp only [cmdOp_packFields, cmdA_packFields, cmdB_packFields, and_self]
  · rintro ⟨rfl, rfl, rfl⟩
    exact packFields_fields cw

theorem Byte.eq_ofNat {op : Byte} {n : Nat} (h : op.toNat = n) : op = BitVec.ofNat 8 n := by
  rw [← h, BitVec.ofNat_toNat, BitVec.setWidth_eq]

/-- The operation codes of format N (R101). -/
def codesN : List Byte := [0x01#8, 0x03#8, 0x05#8, 0x09#8, 0x0A#8, 0x0B#8, 0x0C#8]

/-- The operation codes of format A (R101). -/
def codesA : List Byte := [0x02#8, 0x04#8, 0x06#8, 0x08#8]

/-- What the fields `op`, `a` and `b` can decode to, format by format, with the word that encodes it (R101). -/
inductive Formatted (op a b : Byte) : Option Instr → Prop
  | reserved (code : op = 0x00#8 ∨ 0x0D#8 ≤ op) : Formatted op a b none
  | n {i : Instr} (code : op ∈ codesN) (word : encode i = packFields op 0x00 0x00) : Formatted op a b (formatN i a b)
  | a {f : Byte → Instr} (code : op ∈ codesA) (word : ∀ x, encode (f x) = packFields op x 0x00) :
      Formatted op a b (formatA f a b)
  | ab {f : Byte → Byte → Instr} (code : op = 0x07#8) (word : ∀ x y, encode (f x y) = packFields op x y) :
      Formatted op a b (formatAB f a b)

theorem decodeFields_formatted (op a b : Byte) : Formatted op a b (decodeFields op a b) := by
  unfold decodeFields
  split
  case h_13 =>
    refine .reserved ?_
    rw [← BitVec.toNat_inj, BitVec.le_def]
    grind
  case h_7 hop =>
    obtain rfl := Byte.eq_ofNat hop
    exact .ab rfl fun _ _ => rfl
  case h_2 hop | h_4 hop | h_6 hop | h_8 hop =>
    obtain rfl := Byte.eq_ofNat hop
    exact .a (by decide) fun _ => rfl
  all_goals
    next hop =>
    obtain rfl := Byte.eq_ofNat hop
    exact .n (by decide) rfl

theorem encode_of_decodeFields {op a b : Byte} {i : Instr} (h : decodeFields op a b = some i) :
    encode i = packFields op a b := by
  have formatted := decodeFields_formatted op a b
  rw [h] at formatted
  generalize hi : some i = d at formatted
  cases formatted with
  | reserved => cases hi
  | n code word =>
    obtain ⟨⟨rfl, rfl⟩, ⟨⟩⟩ := Option.ite_none_right_eq_some.mp hi.symm
    exact word
  | a code word =>
    obtain ⟨rfl, ⟨⟩⟩ := Option.ite_none_right_eq_some.mp hi.symm
    exact word a
  | ab code word =>
    cases hi
    exact word a b

/-- Decoding and encoding are inverse to each other. -/
theorem decode_eq_some_iff {cw : CmdWord} {i : Instr} : decode cw = some i ↔ encode i = cw := by
  constructor
  · intro h
    rw [encode_of_decodeFields h, packFields_fields]
  · rintro rfl
    exact decode_encode i

theorem instr_wellFormed (i : Instr) : i.wellFormed = true := by
  cases i <;> rfl

/-- Settles O1: each operation's word has its code and operands in the fields that the decoder reads. -/
theorem decodeEncodeRoundTrip : Obligations.DecodeEncodeRoundTrip := fun i _ => decode_encode i

/-- Settles O2: a word that decodes has zero in every field its format says must be zero. -/
theorem decodedWordReencodes : Obligations.DecodedWordReencodes := fun _ i h =>
  ⟨decode_eq_some_iff.mp h, instr_wellFormed i⟩

/-- Settles O5, by running the decoder. -/
theorem sampleWordsDecode : Obligations.SampleWordsDecode := by
  unfold Obligations.SampleWordsDecode
  decide

/-! ### The rows of the opcode table -/

theorem and_packFields_eq_iff (cw : CmdWord) (m n p op a b : Byte) :
    cw &&& packFields m n p = packFields op a b ↔ cmdOp cw &&& m = op ∧ cmdA cw &&& n = a ∧ cmdB cw &&& p = b := by
  conv_lhs => rw [← packFields_fields cw, packFields_and]
  simp [packFields_eq_iff]

theorem Byte.and_ones (x : Byte) : x &&& 0xFF = x :=
  BitVec.and_allOnes

theorem spells_formatN (i : Instr) (cw : CmdWord) :
    OpcodeRow.spells ⟨encode i, 0xFFFFFF, fun _ _ => i⟩ cw ↔ encode i = cw := by
  rw [OpcodeRow.spells, show (0xFFFFFF : CmdWord) = BitVec.allOnes 24 from rfl, BitVec.and_allOnes, eq_comm]

theorem spells_formatA {f : Byte → Instr} {op : Byte} (hf : ∀ a, encode (f a) = packFields op a 0x00) (cw : CmdWord) :
    OpcodeRow.spells ⟨packFields op 0x00 0x00, packFields 0xFF 0x00 0xFF, fun a _ => f a⟩ cw ↔
      encode (f (cmdA cw)) = cw := by
  simp only [OpcodeRow.spells, and_packFields_eq_iff, Byte.and_ones, hf, packFields_eq_iff]
  simp [eq_comm]

theorem spells_formatAB {f : Byte → Byte → Instr} {op : Byte} (hf : ∀ a b, encode (f a b) = packFields op a b)
    (cw : CmdWord) :
    OpcodeRow.spells ⟨packFields op 0x00 0x00, packFields 0xFF 0x00 0x00, f⟩ cw ↔
      encode (f (cmdA cw) (cmdB cw)) = cw := by
  simp only [OpcodeRow.spells, and_packFields_eq_iff, Byte.and_ones, hf, packFields_eq_iff]
  simp [eq_comm]

/-- A row spells a word exactly if the word is the encoding of the row's operation with the word's own operands. -/
theorem spells_iff (cw : CmdWord) :
    ∀ row ∈ opcodeTable, row.spells cw ↔ encode (row.instr (cmdA cw) (cmdB cw)) = cw := by
  simp only [opcodeTable, List.forall_mem_cons]
  exact ⟨spells_formatN .initialise cw, spells_formatA (op := 0x02) (fun _ => rfl) cw,
    spells_formatN .getRange cw, spells_formatA (op := 0x04) (fun _ => rfl) cw,
    spells_formatN .getDataRate cw, spells_formatA (op := 0x06) (fun _ => rfl) cw,
    spells_formatAB (op := 0x07) (fun _ _ => rfl) cw, spells_formatA (op := 0x08) (fun _ => rfl) cw,
    spells_formatN .getX cw, spells_formatN .getY cw, spells_formatN .getZ cw, spells_formatN .getDeviceID cw, nofun⟩

/-- Every operation has its row. -/
theorem exists_row (i : Instr) :
    ∃ row ∈ opcodeTable, i = row.instr (cmdA (encode i)) (cmdB (encode i)) := by
  cases i <;> simp [opcodeTable, encode]

theorem opcode_masked : ∀ row ∈ opcodeTable, cmdOp row.mask = BitVec.allOnes 8 := by
  decide

/-- The word has the operation code of a row that spells it. -/
theorem cmdOp_of_spells {row : OpcodeRow} (hrow : row ∈ opcodeTable) {cw : CmdWord} (hcw : row.spells cw) :
    cmdOp cw = cmdOp row.pattern :=
  calc cmdOp cw = cmdOp cw &&& cmdOp row.mask := by rw [opcode_masked row hrow, BitVec.and_allOnes]
    _ = cmdOp (cw &&& row.mask) := BitVec.extractLsb'_and.symm
    _ = cmdOp row.pattern := congrArg cmdOp hcw

theorem opcodes_nodup : opcodeTable.Pairwise fun p q => cmdOp p.pattern ≠ cmdOp q.pattern := by
  decide

/-- Settles O3: a row spells the encodings of its own operation, and each operation has a row; the codes of the rows
differ. -/
theorem decodeMatchesOpcodeTable : Obligations.DecodeMatchesOpcodeTable := by
  refine ⟨fun cw i => ⟨fun h => ?_, ?_⟩, ?_⟩
  · obtain rfl := decode_eq_some_iff.mp h
    obtain ⟨row, hrow, hi⟩ := exists_row i
    exact ⟨row, hrow, (spells_iff _ row hrow).mpr (congrArg encode hi.symm), hi⟩
  · rintro ⟨row, hrow, hcw, rfl⟩
    exact decode_eq_some_iff.mpr ((spells_iff cw row hrow).mp hcw)
  · refine opcodes_nodup.imp_of_mem fun hp hq hne cw ⟨hp', hq'⟩ => hne ?_
    rw [← cmdOp_of_spells hp hp', cmdOp_of_spells hq hq']

/-! ### Reserved words -/

theorem code_of_formatN : ∀ op ∈ codesN, op ≠ 0x00#8 ∧ ¬ 0x0D#8 ≤ op ∧ op ∉ codesA := by
  decide

theorem code_of_formatA : ∀ op ∈ codesA, op ≠ 0x00#8 ∧ ¬ 0x0D#8 ≤ op ∧ op ∉ codesN := by
  decide

/-- Settles O4: the word decodes by the format of its operation code, if that has one. -/
theorem reservedWordsAreExactly : Obligations.ReservedWordsAreExactly := by
  intro op a b
  change _ ↔ op = 0x00#8 ∨ 0x0D#8 ≤ op ∨ (op ∈ codesN ∧ _) ∨ (op ∈ codesA ∧ _)
  rw [decode_packFields]
  have formatted := decodeFields_formatted op a b
  generalize decodeFields op a b = d at formatted ⊢
  cases formatted with
  | reserved code =>
    simp only [true_iff]
    exact code.imp_right .inl
  | n code word =>
    obtain ⟨nonzero, low, notA⟩ := code_of_formatN op code
    simp [formatN, nonzero, low, code, notA, imp_iff_not_or]
  | a code word =>
    obtain ⟨nonzero, low, notN⟩ := code_of_formatA op code
    simp [formatA, nonzero, low, code, notN]
  | ab code word =>
    subst code
    simp [formatAB, codesN, codesA]

end Sys2Proof.Machine
end

section
/-! PROOFS. The fields of the response word (R105), and what the field functions keep of their operands (R108, R109). -/

namespace Sys2Proof.Machine

/-! ### The response word -/

theorem Response.word_status (r : Response) : r.word.extractLsb' 16 2 = r.status :=
  BitVec.extractLsb'_append_eq_left

theorem Response.word_field (r : Response) : r.word.extractLsb' 0 16 = r.field :=
  BitVec.extractLsb'_append_eq_right

theorem Response.status_ne_three (r : Response) : r.status ≠ 3#2 := by
  cases r <;> simp [Response.status]

theorem Response.field_of_status_ne_zero {r : Response} (h : r.status ≠ 0#2) : r.field = 0#16 := by
  cases r with
  | ok v => exact absurd rfl h
  | fail sig => rfl
  | illegal => rfl

/-- The word of an `ok` response is its value field: the status bits are zero. -/
theorem Response.word_ok_toNat (v : Value) : (Response.ok v).word.toNat = v.field.toNat :=
  (BitVec.toNat_append 0#2 v.field).trans (by simp)

theorem Value.int16_field (b0 b1 : Byte) : (Value.int16 (le16s b0 b1)).field = lePattern b0 b1 :=
  BitVec.ofInt_toInt

/-- Settles O6: the word is the status before the value field, and each kind of value fits its field. -/
theorem responseWordFields : Obligations.ResponseWordFields := by
  unfold Obligations.ResponseWordFields
  simp only [Response.word_status, Response.word_field, Response.word_ok_toNat]
  refine ⟨Response.status_ne_three, fun _ => Response.field_of_status_ne_zero, fun _ => rfl, fun _ => ⟨rfl, rfl⟩, rfl,
    ?_, rfl, ?_, ?_, ?_, fun b0 b1 => ?_⟩
  · intro v
    cases v <;> rfl
  · exact fun v => BitVec.toNat_setWidth_of_le (by decide)
  · exact fun v => BitVec.toNat_setWidth_of_le (by decide)
  · exact fun v => BitVec.toNat_setWidth_of_le (by decide)
  · rw [Response.field, Value.int16_field, lePattern_toNat]

/-! ### The byte written to DATA_FORMAT -/

theorem dataFormatCompose_getLsbD (old r : Byte) (k : Nat) :
    (dataFormatCompose old r).getLsbD k =
      (old.getLsbD k && (0xF0#8).getLsbD k || r.getLsbD k || (0x08#8).getLsbD k) := by
  simp [dataFormatCompose, fullRes]

theorem rangeOf_eq (v : Byte) : rangeOf v = v.extractLsb' 0 2 := by
  ext k hk
  interval_cases k <;> simp [rangeOf]

/-- Settles O7: each bit is that of the old byte under its mask, of the operand, or of the full-resolution bit. -/
theorem dataFormatComposeBits : Obligations.DataFormatComposeBits := by
  refine ⟨fun _ _ => rfl, fun old r hr => ⟨dataFormatCompose_high old hr, ?_, ?_, ?_⟩, by decide, by decide, by decide⟩
  · rw [dataFormatCompose_getLsbD]
    simp
  · have : r.getLsbD 2 = false := Nat.testBit_lt_two_pow (by omega)
    rw [dataFormatCompose_getLsbD, this]
    simp
  · rw [← rangeOf_eq, rangeOf_dataFormatCompose]

theorem rangeOf_toNat (v : Byte) : (rangeOf v).toNat = v.toNat % 4 := by
  simp [rangeOf_eq]

/-- Settles O8: `rangeOf` takes the low two bits, which composing leaves the operand's. -/
theorem rangeOfRecoversCode : Obligations.RangeOfRecoversCode := by
  refine ⟨rangeOf_toNat, fun old r hr => ?_⟩
  rw [rangeOf_dataFormatCompose, ← rangeOf_eq, rangeOf_toNat]
  omega

end Sys2Proof.Machine
end

section
/-! PROOFS. The shapes of transactions (R65, R106, R107): which bus address each carries, and that a read directly
follows its select frame, by induction on the sequencer. -/

namespace Sys2Proof.Machine

/-! ### Events with the shapes of R106 and R107 -/

/-- The events end with a select frame to `bus`, answered `ok`. -/
def EndsSelected (bus : Byte) (trace : List Event) : Prop :=
  ∃ before addr, trace = before ++ [.bus (.write bus (.one addr)) (some (.ok []))]

theorem ReadsFollowSelect.concat {trace : List Event} {e : Event} (h : ReadsFollowSelect trace)
    (selected : ∀ bus n a, e = .bus (.read bus n) a → EndsSelected bus trace) : ReadsFollowSelect (trace ++ [e]) := by
  intro before after bus n a split
  obtain rfl | ⟨after, last, rfl⟩ := after.eq_nil_or_concat
  · obtain ⟨rfl, he⟩ := List.append_inj' split rfl
    exact selected bus n a (List.singleton_inj.mp he)
  · rw [List.concat_eq_append, ← List.cons_append, ← List.append_assoc] at split
    exact h before after bus n a (List.append_inj' split rfl).1

/-- Every transaction carries a bus address that meets `P`, and every read directly follows its select frame. -/
structure Shaped (P : Byte → Prop) (trace : List Event) : Prop where
  carries : ∀ c a, .bus c a ∈ trace → P c.bus
  selects : ReadsFollowSelect trace

section
variable {P : Byte → Prop} {trace : List Event}

theorem Shaped.nil : Shaped P [] :=
  ⟨nofun, readsFollowSelect_of_no_bus nofun⟩

theorem Shaped.concat_call {c : BusCall} (h : Shaped P trace) (hc : P c.bus)
    (selected : ∀ bus n, c = .read bus n → EndsSelected bus trace) (a : Option Answer) :
    Shaped P (trace ++ [.bus c a]) where
  carries c' a' hmem := by
    obtain hmem | ⟨rfl, -⟩ : .bus c' a' ∈ trace ∨ c' = c ∧ a' = a := by simpa using hmem
    · exact h.carries c' a' hmem
    · exact hc
  selects := h.selects.concat fun bus n _ he => selected bus n (Event.bus.inj he).1

theorem Shaped.concat_other {e : Event} (h : Shaped P trace) (he : e.isBus = false) : Shaped P (trace ++ [e]) where
  carries c a hmem := by
    obtain hmem | rfl : .bus c a ∈ trace ∨ .bus c a = e := by simpa using hmem
    · exact h.carries c a hmem
    · cases he
  selects := h.selects.concat fun bus n a hread => by
    subst hread
    cases he

end

/-! ### The sequencer plans each read after its select frame -/

theorem planOf_head_ne_read (bus cached held : Byte) (i : Instr) (b : Byte) (n : ReadLen) :
    (planOf bus cached held i)[0]? ≠ some (.read b n) := by
  cases i <;> simp [planOf]

/-- Before a read the table has its select frame, whatever byte the sequencer held there. -/
theorem planOf_select_before_read {bus cached held b : Byte} {i : Instr} {k : Nat} {n : ReadLen}
    (h : (planOf bus cached held i)[k + 1]? = some (.read b n)) (held' : Byte) :
    ∃ addr, (planOf bus cached held' i)[k]? = some (.write b (.one addr)) := by
  cases i with
  | initialise => rcases k with _ | _ | _ | _ | _ | k <;> simp_all [planOf]
  | setRange range => rcases k with _ | _ | k <;> simp_all [planOf]
  | _ => rcases k with _ | k <;> simp_all [planOf]

/-- If the transaction that is next is a read, its select frame was the last event. -/
def State.Primed (s : State) : Prop :=
  ∀ bus n, s.next = some (.read bus n) → EndsSelected bus s.trace

theorem State.Primed.start (i : Instr) (s : State) : (s.start i).Primed := fun _ _ h =>
  absurd h (planOf_head_ne_read _ _ _ i _ _)

theorem State.next_eq {s : State} {q : Seq} (hq : s.seq = some q) : s.next = q.plan s.busByte s.cachedRange := by
  rw [State.next, hq, Option.bind_some]

/-- After a transaction answered `ok` the sequencer is primed again. -/
theorem State.Primed.after_ok {s t : State} {q : Seq} {c : BusCall} {v : Byte × Byte} (hq : s.seq = some q)
    (hc : q.plan s.busByte s.cachedRange = some c) (hcall : s.call c = .ok v t) : t.Primed := by
  intro bus n hn
  obtain ⟨u, hu, rfl⟩ := State.call_ok hcall
  have seq : ((u.issue c (some (c.answer (.ok v.1 v.2)))).advance c v.1).seq =
      some (q.onward (c.keeps v.1 q.held)) := by simp [hu.seq, hq, Seq.onward]
  rw [State.next_eq seq] at hn
  simp only [State.advance_busByte, State.issue_busByte, hu.busByte, State.advance_cachedRange,
    State.issue_cachedRange, hu.cachedRange] at hn
  obtain ⟨addr, select⟩ := planOf_select_before_read hn q.held
  obtain rfl : c = .write bus (.one addr) := Option.some_inj.mp (hc.symm.trans select)
  exact ⟨u.trace, addr, rfl⟩

theorem runSequencer_shaped {P : Byte → Prop} (n : Nat) {s : State} (hP : P s.busByte) (shaped : Shaped P s.trace)
    (primed : s.Primed) : Shaped P (runSequencer n s).trace := by
  induction n generalizing s with
  | zero => exact shaped
  | succ n ih =>
    cases hq : s.seq with
    | none => simpa only [runSequencer, hq] using shaped
    | some q =>
      cases hc : q.plan s.busByte s.cachedRange with
      | none => simpa only [runSequencer, hq, hc] using shaped
      | some c =>
        have issued (a : Option Answer) {u : State} (hu : EnvMoved s u) : Shaped P (u.issue c a).trace := by
          rw [State.issue_trace, hu.trace]
          refine shaped.concat_call (by rwa [Seq.plan_bus hc]) (fun bus n hread => primed bus n ?_) a
          rw [State.next_eq hq, hc, hread]
        rw [runSequencer_at hq hc]
        cases hcall : s.call c with
        | gone t =>
          obtain ⟨u, hu, rfl | ⟨_, _, -, rfl⟩ | ⟨a, _, _, -, -, rfl⟩⟩ := State.call_gone hcall
          · exact issued none hu
          · exact Shaped.concat_other (hu.trace ▸ shaped) rfl
          · exact (issued a hu).concat_other rfl
        | fail sig t =>
          obtain ⟨u, hu, rfl⟩ := State.call_fail hcall
          exact (issued _ hu).concat_other rfl
        | ok v t =>
          have primed' := State.Primed.after_ok hq hc hcall
          obtain ⟨u, hu, rfl⟩ := State.call_ok hcall
          have shaped' := issued (some (c.answer (.ok v.1 v.2))) hu
          cases hclose : q.closes v.1 v.2 with
          | some r =>
            simp only [hclose, State.respond_trace, q.commits_trace]
            exact shaped'.concat_other rfl
          | none =>
            simp only [hclose]
            exact ih (by simpa [hu.busByte] using hP) shaped' primed'

/-- An operation keeps the shapes, and adds transactions to the state's own bus address alone. -/
theorem exec_shaped {P : Byte → Prop} {i : Instr} {s t : State} (hP : P s.busByte) (shaped : Shaped P s.trace)
    (h : exec i s = .next t) : Shaped P t.trace := by
  rw [sequencerRefinesEveryOperation] at h
  cases h
  exact runSequencer_shaped _ hP shaped (.start i s)

theorem State.busByte_high (s : State) : s.busByte.getLsbD 7 = false := by
  simp [State.busByte]

/-- Settles O22: what an operation adds to its past is what it adds to no past. -/
theorem transactionShapes : Obligations.TransactionShapes := by
  intro i s t seen ht trace
  obtain ⟨t', seen', ht', trace', alone⟩ := thePastGatesNothing i s []
  cases ht.symm.trans ht'
  obtain rfl := List.append_cancel_left (trace.symm.trans trace')
  have shaped := exec_shaped (P := (· = s.busByte)) (s := { s with trace := [] }) rfl .nil alone
  refine ⟨fun c a hmem => ?_, shaped.selects⟩
  have carried := shaped.carries c a hmem
  exact ⟨carried, carried ▸ s.busByte_high⟩

/-- Settles O28: of all a step can do, only an operation adds transactions. -/
theorem stepKeepsTransactionShapes : Obligations.StepKeepsTransactionShapes := by
  intro s t selects carries ht
  have shaped : Shaped (·.getLsbD 7 = false) s.trace := ⟨carries, selects⟩
  suffices kept : Shaped (·.getLsbD 7 = false) t.trace from ⟨kept.selects, kept.carries⟩
  have accepted (cw : CmdWord) (rest : List HostEvent) : Shaped (·.getLsbD 7 = false) (s.accept cw rest).trace :=
    shaped.concat_other rfl
  obtain ⟨-, rfl⟩ | ⟨_, _, -, -, rfl⟩ | ⟨addr, range, rest, -, rfl⟩ | ⟨cw, rest, -, -, -, rfl⟩ |
    ⟨cw, rest, i, -, -, -, hexec⟩ := step_cases ht
  · exact shaped
  · exact shaped
  · exact shaped.concat_other rfl
  · exact (accepted cw rest).concat_other rfl
  · exact exec_shaped (State.busByte_high _) (accepted cw rest) hexec

end Sys2Proof.Machine
end

section
/-! PROOFS. The operations of R117 and their expansions: no transaction asks which operation the sequencer is at, so a
body that two operations share ends alike in both. -/

namespace Sys2Proof.Machine

/-! ### A transaction does not ask for the operation -/

/-- The access with the sequencer's operation set aside in its state. -/
def Access.forgetInstr {α : Type} : Access α → Access α
  | .ok v s => .ok v s.forgetInstr
  | .fail sig s => .fail sig s.forgetInstr
  | .gone s => .gone s.forgetInstr

section
variable (s : State) (c : BusCall)

theorem State.forgetInstr_start (i j : Instr) : (s.start i).forgetInstr = (s.start j).forgetInstr := rfl

theorem State.forgetInstr_advance (b0 : Byte) : s.forgetInstr.advance c b0 = (s.advance c b0).forgetInstr := by
  simp [State.advance, State.forgetInstr, Function.comp_def]

theorem State.forgetInstr_settle (o : Offer) : s.forgetInstr.settle c o = (s.settle c o).forgetInstr := by
  cases o with
  | ok b0 b1 => exact congrArg (Access.ok (b0, b1)) (State.forgetInstr_advance (s.issue c _) c b0)
  | fail sig => rfl

theorem State.forgetInstr_behind : s.forgetInstr.behind c = (s.behind c).forgetInstr := by
  have device : s.forgetInstr.device = s.device := rfl
  have calls : s.forgetInstr.calls = s.calls := rfl
  unfold State.behind
  rw [device, calls]
  cases s.device with
  | some d => exact State.forgetInstr_settle { s with device := some (d.after c) } c (d.offer c)
  | none =>
    dsimp only
    cases Config.freeAnswer s.calls with
    | some o => exact State.forgetInstr_settle s c o
    | none => rfl

theorem Access.forgetInstr_thenReset {α : Type} (x : Access α) (addr : BusAddr) (range : Byte) :
    x.forgetInstr.thenReset addr range = (x.thenReset addr range).forgetInstr := by
  cases x <;> rfl

theorem State.forgetInstr_call : s.forgetInstr.call c = (s.call c).forgetInstr := by
  have turn : s.forgetInstr.turn = s.turn := rfl
  have taken : s.forgetInstr.takeTurn = s.takeTurn.forgetInstr := rfl
  unfold State.call
  rw [turn, taken]
  cases s.turn.verdict with
  | behind => exact State.forgetInstr_behind _ c
  | answer o => exact State.forgetInstr_settle _ c o
  | never => rfl
  | resetBefore addr range => rfl
  | resetDuring addr range => rfl
  | resetAfter offer addr range =>
    cases offer with
    | none =>
      dsimp only
      rw [State.forgetInstr_behind, Access.forgetInstr_thenReset]
    | some o =>
      dsimp only
      rw [State.forgetInstr_settle, Access.forgetInstr_thenReset]

end

/-! ### Bodies that operations share -/

/-- The body does the same whichever operation the sequencer is at. -/
def AsksNoInstr (g : State → State) : Prop :=
  ∀ s, g s.forgetInstr = (g s).forgetInstr

theorem AsksNoInstr.respond (r : Response) : AsksNoInstr (·.respond r) := fun _ => rfl

theorem AsksNoInstr.call_orFail (c : Byte → BusCall) {k : Byte × Byte → State → State} (hk : ∀ v, AsksNoInstr (k v)) :
    AsksNoInstr fun s => (s.call (c s.busByte)).orFail k := by
  intro s
  change (s.forgetInstr.call (c s.busByte)).orFail k = ((s.call (c s.busByte)).orFail k).forgetInstr
  rw [State.forgetInstr_call]
  cases s.call (c s.busByte) with
  | ok v t => exact hk v t
  | fail sig t => rfl
  | gone t => rfl

theorem selectThenRead_asksNoInstr (addr : Byte) (len : ReadLen) (f : Byte → Byte → Value) :
    AsksNoInstr (selectThenRead addr len f) :=
  .call_orFail (fun bus => .write bus (.one addr)) fun _ =>
    .call_orFail (fun bus => .read bus len) fun b => .respond (.ok (f b.1 b.2))

theorem readAndRespond_asksNoInstr (addr : Byte) (f : Byte → Value) : AsksNoInstr (readAndRespond addr f) := by
  rw [readAndRespond_eq]
  exact selectThenRead_asksNoInstr addr .one _

theorem readWordAndRespond_asksNoInstr (addr : Byte) : AsksNoInstr (readWordAndRespond addr) := by
  rw [readWordAndRespond_eq]
  exact selectThenRead_asksNoInstr addr .two _

theorem writeAndRespond_asksNoInstr (addr v : Byte) : AsksNoInstr (writeAndRespond addr v) := by
  rw [funext (writeAndRespond_eq addr v)]
  exact .call_orFail (fun bus => .write bus (.two addr v)) fun _ => .respond (.ok .unit)

/-- Two operations with one body end alike, but for the sequencer's operation. -/
theorem AsksNoInstr.exec_alike {g : State → State} (hg : AsksNoInstr g) {i j : Instr} {s : State}
    (hi : exec i s = .next (g (s.start i))) (hj : exec j s = .next (g (s.start j))) :
    ∃ t u, exec i s = .next t ∧ exec j s = .next u ∧ t.forgetInstr = u.forgetInstr := by
  refine ⟨_, _, hi, hj, ?_⟩
  rw [← hg, ← hg, State.forgetInstr_start s i j]

/-- Settles O39: each of the five shares its body with its expansion. -/
theorem aliasesExpand : Obligations.AliasesExpand := by
  rintro s i j (⟨rfl, rfl⟩ | ⟨rfl, rfl⟩ | ⟨rfl, rfl⟩ | ⟨rfl, rfl⟩ | ⟨rate, rfl, rfl⟩)
  · exact (readAndRespond_asksNoInstr 0x00#8 .byte).exec_alike rfl rfl
  · exact (readWordAndRespond_asksNoInstr 0x32#8).exec_alike rfl rfl
  · exact (readWordAndRespond_asksNoInstr 0x34#8).exec_alike rfl rfl
  · exact (readWordAndRespond_asksNoInstr 0x36#8).exec_alike rfl rfl
  · exact (writeAndRespond_asksNoInstr 0x2C#8 rate).exec_alike rfl rfl

end Sys2Proof.Machine
end

section
/-! PROOFS. The transactions that a run of the sequencer shows, said once (`Planned`, `exec_planned`); and what follows
for `initialise`: the identity check gates the rest of it (R141). -/

namespace Sys2Proof.Machine

/-! ### The transactions a run shows -/

/-- `seen` are events that the sequencer, at `q`, can show: each transaction is the one that the table plans, and the
next comes only after an `ok` that does not close the operation. -/
inductive Planned (bus cached : Byte) : Seq → List Event → Prop
  /-- no transaction is issued -/
  | quiet {q : Seq} {seen : List Event} (noBus : ∀ e ∈ seen, e.isBus = false) : Planned bus cached q seen
  /-- one transaction is issued, and no other after it -/
  | last {q : Seq} {c : BusCall} {seen : List Event} (plan : q.plan bus cached = some c) (a : Option Answer)
      (noBus : ∀ e ∈ seen, e.isBus = false) : Planned bus cached q (.bus c a :: seen)
  /-- a transaction is answered `ok`, and the operation goes on -/
  | onward {q : Seq} {c : BusCall} {b0 b1 : Byte} {seen : List Event} (plan : q.plan bus cached = some c)
      (unclosed : q.closes b0 b1 = none) (later : Planned bus cached (q.onward (c.keeps b0 q.held)) seen) :
      Planned bus cached q (.bus c (some (c.answer (.ok b0 b1))) :: seen)

theorem runSequencer_planned (n : Nat) {s : State} {q : Seq} (hq : s.seq = some q) :
    ∃ seen, (runSequencer n s).trace = s.trace ++ seen ∧ Planned s.busByte s.cachedRange q seen := by
  induction n generalizing s q with
  | zero => exact ⟨[], (List.append_nil _).symm, .quiet nofun⟩
  | succ n ih =>
    cases hc : q.plan s.busByte s.cachedRange with
    | none => exact ⟨[], by simp [runSequencer, hq, hc], .quiet nofun⟩
    | some c =>
      rw [runSequencer_at hq hc]
      cases hcall : s.call c with
      | gone t =>
        obtain ⟨u, hu, rfl | ⟨addr, range, -, rfl⟩ | ⟨a, addr, range, -, -, rfl⟩⟩ := State.call_gone hcall
        · exact ⟨[.bus c none], by simp [hu.trace], .last hc none nofun⟩
        · exact ⟨[.reset addr range], by simp [hu.trace], .quiet (by simp [Event.isBus])⟩
        · exact ⟨[.bus c a, .reset addr range], by simp [hu.trace], .last hc a (by simp [Event.isBus])⟩
      | fail sig t =>
        obtain ⟨u, hu, rfl⟩ := State.call_fail hcall
        exact ⟨[.bus c (some (.fail sig)), .response (q.failsWith u.lateFail sig)], by simp [hu.trace],
          .last hc _ (by simp [Event.isBus])⟩
      | ok v t =>
        obtain ⟨u, hu, ht⟩ := State.call_ok hcall
        have trace : t.trace = s.trace ++ [.bus c (some (c.answer (.ok v.1 v.2)))] := by simp [ht, hu.trace]
        cases hclose : q.closes v.1 v.2 with
        | some r =>
          exact ⟨[.bus c (some (c.answer (.ok v.1 v.2))), .response (.ok r)],
            by simp [hclose, q.commits_trace, trace], .last hc _ (by simp [Event.isBus])⟩
        | none =>
          have seq : t.seq = some (q.onward (c.keeps v.1 q.held)) := by simp [ht, hu.seq, hq, Seq.onward]
          have busByte : t.busByte = s.busByte := by simp [ht, hu.busByte]
          have range : t.cachedRange = s.cachedRange := by simp [ht, hu.cachedRange]
          obtain ⟨seen, later, planned⟩ := ih seq
          rw [busByte, range] at planned
          exact ⟨.bus c (some (c.answer (.ok v.1 v.2))) :: seen, by simp [hclose, later, trace],
            .onward hc hclose planned⟩

theorem exec_planned {i : Instr} {s t : State} (h : exec i s = .next t) :
    ∃ seen, t.trace = s.trace ++ seen ∧ Planned s.busByte s.cachedRange ⟨i, 0, 0x00#8⟩ seen := by
  rw [sequencerRefinesEveryOperation] at h
  cases h
  exact runSequencer_planned _ rfl

/-- A transaction that a run shows is the one planned, or comes after that one was answered `ok`. -/
theorem Planned.cases_bus {bus cached : Byte} {q : Seq} {before after : List Event} {c : BusCall} {a : Option Answer}
    (h : Planned bus cached q (before ++ .bus c a :: after)) :
    (before = [] ∧ q.plan bus cached = some c) ∨
    ∃ c' b0 b1 before', q.plan bus cached = some c' ∧ q.closes b0 b1 = none ∧
      before = .bus c' (some (c'.answer (.ok b0 b1))) :: before' ∧
      Planned bus cached (q.onward (c'.keeps b0 q.held)) (before' ++ .bus c a :: after) := by
  generalize split : before ++ .bus c a :: after = seen at h
  cases h with
  | quiet noBus => cases noBus (.bus c a) (by simp [← split])
  | last plan _ noBus =>
    obtain ⟨rfl, same⟩ | ⟨before', rfl, rfl⟩ := List.append_eq_cons_iff.mp split
    · cases same
      exact .inl ⟨rfl, plan⟩
    · cases noBus (.bus c a) (by simp)
  | onward plan unclosed later =>
    obtain ⟨rfl, same⟩ | ⟨before', rfl, rfl⟩ := List.append_eq_cons_iff.mp split
    · cases same
      exact .inl ⟨rfl, plan⟩
    · exact .inr ⟨_, _, _, before', plan, unclosed, rfl, later⟩

/-- Settles O25: of the transactions that `initialise` plans, the first two are the identity read, and an identity byte
other than 0xE5 closes it at the second. -/
theorem identityGatesInitialize : Obligations.IdentityGatesInitialize := by
  intro s t before after c a ht trace late
  obtain ⟨seen, trace', planned⟩ := exec_planned ht
  rw [trace, List.append_assoc] at trace'
  rw [← List.append_cancel_left trace'] at planned
  obtain ⟨rfl, plan⟩ | ⟨select, x0, y0, before, plan, -, rfl, afterSelect⟩ := planned.cases_bus
  · cases plan
    simp at late
  cases plan
  obtain ⟨rfl, plan⟩ | ⟨read, id, y1, later, plan, unclosed, rfl, -⟩ := afterSelect.cases_bus
  · cases plan
    simp at late
  cases plan
  obtain rfl : id = 0xE5#8 := by simpa [Seq.closes, Seq.onward, fullCount, identityByte] using unclosed
  exact ⟨later, rfl⟩

end Sys2Proof.Machine
end

section
/-! PROOFS. What a run of the sequencer comes to when the script answers its transactions: a rule for an `ok` after
which the operation goes on, one for the `ok` that ends it, and `initialise` as six of them (R140). -/

namespace Sys2Proof.Machine

/-! ### A run under a script -/

/-- `t` is `s` after the transactions `bus` of one operation, which took the first of the turns `us`: the sequencer is
at `q`, and the turns left answer with `offers`. -/
structure ScriptRun (s t : State) (q : Seq) (us rest : List Turn) (offers : List Offer) (bus : List Event) :
    Prop where
  kept : Kept s t
  cachedRange : t.cachedRange = s.cachedRange
  seq : t.seq = some q
  calls : t.calls = s.calls + bus.length
  trace : t.trace = s.trace ++ bus
  turns : ∃ taken coming, us = taken ++ coming ∧ t.Hears coming offers rest ∧
    t.device = s.device.map fun d => d.acts (taken.flatMap (·.others))

theorem RefDevice.acts_append (d : RefDevice) (l l' : List OtherAct) : d.acts (l ++ l') = (d.acts l).acts l' :=
  List.foldl_append

/-- The turn that gives the next answer is the script's next. -/
theorem State.Hears.cons {s : State} {us rest : List Turn} {o : Offer} {offers : List Offer}
    (h : s.Hears us (o :: offers) rest) :
    ∃ v vs, us = v :: vs ∧ s.script = v :: (vs ++ rest) ∧ v.verdict = .answer o ∧
      s.takeTurn.Hears vs offers rest := by
  obtain ⟨verdicts, script⟩ := h
  obtain ⟨v, vs, rfl, hv, hvs⟩ := List.map_eq_cons_iff.mp verdicts
  exact ⟨v, vs, rfl, script, hv, hvs, by simp [script]⟩

section
variable {s t : State} {q : Seq} {us rest : List Turn} {o : Offer} {offers : List Offer} {bus : List Event}

theorem ScriptRun.start (i : Instr) (h : s.Hears us offers rest) :
    ScriptRun s (s.start i) ⟨i, 0, 0x00#8⟩ us rest offers [] :=
  ⟨.start i s, rfl, rfl, rfl, by simp, [], us, rfl, ⟨h.verdicts, h.script⟩, by simp [RefDevice.acts]⟩

theorem ScriptRun.busByte (h : ScriptRun s t q us rest offers bus) : t.busByte = s.busByte := by
  simp [State.busByte, h.kept.busAddr]

/-- A transaction goes out and gets the script's next answer. -/
theorem ScriptRun.issue (h : ScriptRun s t q us rest (o :: offers) bus) (c : BusCall) :
    ∃ v later, t.script = v :: later ∧ v.verdict = .answer o ∧
      ScriptRun s (t.takeTurn.issue c (some (c.answer o))) q us rest offers (bus ++ [.bus c (some (c.answer o))]) := by
  obtain ⟨⟨busAddr, lateFail, inbox⟩, range, seq, calls, trace, taken, coming, rfl, hears, device⟩ := h
  obtain ⟨v, vs, rfl, script, hv, hears'⟩ := hears.cons
  refine ⟨v, vs ++ rest, script, hv, ⟨busAddr, lateFail, inbox⟩, range, seq, by simp [calls, Nat.add_assoc],
    by simp [trace], taken ++ [v], vs, by simp, ⟨hears'.verdicts, hears'.script⟩, ?_⟩
  simp [State.turn, script, device, Function.comp_def, RefDevice.acts_append]

/-- The operation responds once the script has answered in all its turns. -/
theorem ScriptRun.respond (h : ScriptRun s t q us rest [] bus) (r : Response) :
    Result s (t.respond r) us rest bus r s.cachedRange := by
  obtain ⟨kept, range, -, calls, trace, taken, coming, rfl, ⟨verdicts, script⟩, device⟩ := h
  obtain rfl : coming = [] := List.map_eq_nil_iff.mp verdicts
  exact ⟨kept.respond r, range, rfl, by simp [device], script, calls, by simp [trace]⟩

/-- What an operation commits to the cache shows in the cache alone. -/
theorem Result.commits {r : Response} (h : Result s (t.respond r) us rest bus r s.cachedRange) (q : Seq) :
    Result s ((q.commits t).respond r) us rest bus r (q.commits s).cachedRange := by
  obtain ⟨⟨busAddr, lateFail, inbox⟩, range, idle, device, script, calls, trace⟩ := h
  unfold Seq.commits
  split
  · exact ⟨⟨busAddr, lateFail, inbox⟩, rfl, idle, device, script, calls, trace⟩
  · exact ⟨⟨busAddr, lateFail, inbox⟩, range, idle, device, script, calls, trace⟩

section
variable {n : Nat} {c : BusCall} {b0 b1 : Byte}

/-- One more transaction, answered `ok`. -/
theorem ScriptRun.call_ok (h : ScriptRun s t q us rest (.ok b0 b1 :: offers) bus) (c : BusCall) :
    ∃ u, t.call c = .ok (b0, b1) u ∧
      ScriptRun s u (q.onward (c.keeps b0 q.held)) us rest offers
        (bus ++ [.bus c (some (c.answer (.ok b0 b1)))]) := by
  obtain ⟨v, later, script, verdict, ⟨busAddr, lateFail, inbox⟩, range, seq, calls, trace, turns⟩ := h.issue c
  obtain ⟨taken, coming, split, hears, device⟩ := turns
  exact ⟨_, State.call_scripted_ok c script verdict, ⟨busAddr, lateFail, inbox⟩, range,
    by simp [h.seq, Seq.onward], calls, trace, taken, coming, split, ⟨hears.verdicts, hears.script⟩, device⟩

/-- The transaction is answered `ok`, and the operation goes on. -/
theorem ScriptRun.onward {seen : List Event} {r : Response} {range : Byte}
    (h : ScriptRun s t q us rest (.ok b0 b1 :: offers) bus)
    (plan : q.plan s.busByte s.cachedRange = some c) (unclosed : q.closes b0 b1 = none)
    (goesOn : ∀ u, ScriptRun s u (q.onward (c.keeps b0 q.held)) us rest offers
      (bus ++ [.bus c (some (c.answer (.ok b0 b1)))]) → Result s (runSequencer n u) us rest seen r range) :
    Result s (runSequencer (n + 1) t) us rest seen r range := by
  obtain ⟨u, hcall, run⟩ := h.call_ok c
  rw [← h.busByte, ← h.cachedRange] at plan
  simp only [runSequencer_at h.seq plan, hcall, unclosed]
  exact goesOn u run

/-- The transaction is answered `ok`, and the operation ends. -/
theorem ScriptRun.closes {v : Value} (h : ScriptRun s t q us rest [.ok b0 b1] bus)
    (plan : q.plan s.busByte s.cachedRange = some c) (closed : q.closes b0 b1 = some v) :
    Result s (runSequencer (n + 1) t) us rest (bus ++ [.bus c (some (c.answer (.ok b0 b1)))]) (.ok v)
      (q.commits s).cachedRange := by
  obtain ⟨u, hcall, run⟩ := h.call_ok c
  rw [← h.busByte, ← h.cachedRange] at plan
  simp only [runSequencer_at h.seq plan, hcall, closed]
  exact (run.respond (.ok v)).commits q

end
end

/-- Settles O31: each of the six answers takes the sequencer to the next transaction that its table plans. -/
theorem initializeConfiguresTheSensor : Obligations.InitializeConfiguresTheSensor := by
  refine ⟨decode_encode .initialise, ?_⟩
  intro s us rest x0 y0 y1 x2 y2 x3 y3 old y4 x5 y5 hears
  refine ⟨_, sequencerRefinesEveryOperation .initialise s, ?_⟩
  refine (ScriptRun.start .initialise hears).onward rfl rfl fun _ selected => ?_
  refine selected.onward rfl rfl fun _ identified => ?_
  refine identified.onward rfl rfl fun _ powered => ?_
  refine powered.onward rfl rfl fun _ selected => ?_
  refine selected.onward rfl rfl fun _ readBack => ?_
  exact readBack.closes rfl rfl

end Sys2Proof.Machine
end

section
/-! PROOFS. What an operation comes to when the script fails one of its transactions, what an operation that selects a
register and reads it comes to under a script, and the statements of the measurement range and of the byte reads
(R150, R151, R161, R170, R200). -/

namespace Sys2Proof.Machine

/-! ### A scripted failure -/

theorem BusCall.answer_fail (c : BusCall) (sig : FailSig) : c.answer (.fail sig) = .fail sig := by
  obtain _ | ⟨_, _ | _⟩ := c <;> rfl

/-- The script fails the transaction, and the operation ends. -/
theorem ScriptRun.fails {s t : State} {q : Seq} {us rest : List Turn} {bus : List Event} {n : Nat} {c : BusCall}
    {sig : FailSig} (h : ScriptRun s t q us rest [.fail sig] bus) (plan : q.plan s.busByte s.cachedRange = some c) :
    Result s (runSequencer (n + 1) t) us rest (bus ++ [.bus c (some (.fail sig))]) (q.failsWith s.lateFail sig)
      s.cachedRange := by
  obtain ⟨v, later, script, verdict, run⟩ := h.issue c
  rw [BusCall.answer_fail] at run
  rw [← h.busByte, ← h.cachedRange] at plan
  simp only [runSequencer_at h.seq plan, State.call_scripted_fail c script verdict, run.kept.lateFail]
  exact run.respond _

/-! ### A register selected and read under a script -/

section
variable {i : Instr} {addr : Byte} {len : ReadLen} {s : State} {us rest : List Turn} {x0 y0 : Byte} {sig : FailSig}
  (plan : ∀ bus cached held, planOf bus cached held i = [.write bus (.one addr), .read bus len])
include plan

theorem fullCount_of_selectThenRead : fullCount i = 2 := by
  rw [← planOf_length 0 0 0 i, plan]
  rfl

/-- The select frame fails: the signal, and no read. -/
theorem exec_select_fails (hears : s.Hears us [.fail sig] rest) :
    ∃ t, exec i s = .next t ∧ Result s t us rest [s.select addr (.fail sig)] (.fail sig) s.cachedRange := by
  have count := fullCount_of_selectThenRead plan
  have notInit := (ne_of_fullCount_lt (i := i) (by omega)).1
  refine ⟨_, sequencerRefinesEveryOperation i s, ?_⟩
  have ended := (ScriptRun.start i hears).fails (n := 1) (c := .write s.busByte (.one addr)) (by simp [Seq.plan, plan])
  rw [count]
  rwa [Seq.failsWith_of_ne notInit] at ended

/-- The select frame is answered `ok`: what remains is the read. -/
theorem exec_selected {offers : List Offer} {seen : List Event} {r : Response}
    (hears : s.Hears us (.ok x0 y0 :: offers) rest)
    (reads : ∀ u, ScriptRun s u ⟨i, 1, 0x00#8⟩ us rest offers [s.select addr (.ok [])] →
      Result s (runSequencer 1 u) us rest seen r s.cachedRange) :
    ∃ t, exec i s = .next t ∧ Result s t us rest seen r s.cachedRange := by
  have count := fullCount_of_selectThenRead plan
  have notInit := (ne_of_fullCount_lt (i := i) (by omega)).1
  refine ⟨_, sequencerRefinesEveryOperation i s, ?_⟩
  rw [count]
  exact (ScriptRun.start i hears).onward (c := .write s.busByte (.one addr)) (by simp [Seq.plan, plan])
    (by simp [Seq.closes, notInit, count]) reads

/-- The read fails after the select frame: the signal. -/
theorem exec_read_fails (hears : s.Hears us [.ok x0 y0, .fail sig] rest) :
    ∃ t, exec i s = .next t ∧
      Result s t us rest [s.select addr (.ok []), .bus (.read s.busByte len) (some (.fail sig))] (.fail sig)
        s.cachedRange := by
  have notInit := (ne_of_fullCount_lt (i := i) (by simp [fullCount_of_selectThenRead plan])).1
  refine exec_selected plan hears fun u selected => ?_
  have ended := selected.fails (n := 0) (c := .read s.busByte len) (by simp [Seq.plan, plan])
  rwa [Seq.failsWith_of_ne notInit] at ended

/-- Both transactions are answered `ok`: the value of the bytes read, and nothing written to the cache. -/
theorem exec_select_read {b0 b1 : Byte} (hears : s.Hears us [.ok x0 y0, .ok b0 b1] rest) :
    ∃ t, exec i s = .next t ∧
      Result s t us rest
        [s.select addr (.ok []), .bus (.read s.busByte len) (some ((BusCall.read s.busByte len).answer (.ok b0 b1)))]
        (.ok (finalValue i b0 b1)) s.cachedRange := by
  have count := fullCount_of_selectThenRead plan
  obtain ⟨notInit, notSet⟩ := ne_of_fullCount_lt (i := i) (by omega)
  refine exec_selected plan hears fun u selected => ?_
  have ended := selected.closes (n := 0) (c := .read s.busByte len) (v := finalValue i b0 b1)
    (by simp [Seq.plan, plan]) (by simp [Seq.closes, notInit, count])
  rwa [Seq.commits_of_ne notSet] at ended

end

/-! ### The statements -/

/-- Settles O34: each answer takes the sequencer to the next of the three transactions that its table plans, and only
the last `ok` commits the operand to the cache. -/
theorem setRangeRewritesDataFormat : Obligations.SetRangeRewritesDataFormat := by
  intro s us rest range
  have ran := sequencerRefinesEveryOperation (.setRange range) s
  refine ⟨decode_encode (.setRange range), ?_, ?_, ?_, ?_⟩
  · intro x0 y0 old y1 x2 y2 hears
    refine ⟨_, ran, (ScriptRun.start _ hears).onward rfl rfl fun _ selected => ?_⟩
    exact selected.onward rfl rfl fun _ readBack => readBack.closes rfl rfl
  · intro sig hears
    exact ⟨_, ran, (ScriptRun.start _ hears).fails rfl⟩
  · intro x0 y0 sig hears
    exact ⟨_, ran, (ScriptRun.start _ hears).onward rfl rfl fun _ selected => selected.fails rfl⟩
  · intro x0 y0 old y1 sig hears
    refine ⟨_, ran, (ScriptRun.start _ hears).onward rfl rfl fun _ selected => ?_⟩
    exact selected.onward rfl rfl fun _ readBack => readBack.fails rfl

/-- Settles O35: each of the four selects its register and reads it, and makes its value of the byte read. -/
theorem byteReadsSelectThenRead : Obligations.ByteReadsSelectThenRead := by
  refine ⟨decode_encode .getRange, decode_encode .getDataRate, fun addr => decode_encode (.readRegister addr),
    decode_encode .getDeviceID, ?_⟩
  intro s us rest i addr f which
  have plan : ∀ bus cached held, planOf bus cached held i = [.write bus (.one addr), .read bus .one] := by
    obtain ⟨rfl, rfl, -⟩ | ⟨rfl, rfl, -⟩ | ⟨rfl, -⟩ | ⟨rfl, rfl, -⟩ := which <;> exact fun _ _ _ => rfl
  have value : ∀ b0 b1, finalValue i b0 b1 = f b0 := by
    obtain ⟨rfl, -, rfl⟩ | ⟨rfl, -, rfl⟩ | ⟨rfl, rfl⟩ | ⟨rfl, -, rfl⟩ := which
    · exact fun b0 _ => congrArg Value.code2 (rangeOf_eq b0)
    · exact fun b0 _ => congrArg Value.code4 (rateOf_eq b0)
    · exact fun _ _ => rfl
    · exact fun _ _ => rfl
  refine ⟨fun x0 y0 v y1 hears => ?_, fun _ => exec_select_fails plan, fun _ _ _ => exec_read_fails plan⟩
  have ended := exec_select_read plan hears
  rwa [value] at ended

end Sys2Proof.Machine
end

section
/-! PROOFS. The statement of the data rate (R160): the operation is one transaction, which the script answers. -/

namespace Sys2Proof.Machine

/-- Settles O36: the write frame is the one transaction that the table plans, so either answer to it ends the
operation. -/
theorem setDataRateOverwritesBwRate : Obligations.SetDataRateOverwritesBwRate := by
  intro s us rest rate
  have ran := sequencerRefinesEveryOperation (.setDataRate rate) s
  refine ⟨decode_encode (.setDataRate rate), ?_, ?_⟩
  · intro x0 y0 hears
    exact ⟨_, ran, (ScriptRun.start _ hears).closes rfl rfl⟩
  · intro sig hears
    exact ⟨_, ran, (ScriptRun.start _ hears).fails rfl⟩

end Sys2Proof.Machine
end

section
/-! PROOFS. The statements of register access and of the axis reads (R171, R172, R190 to R192): a register write is one
transaction, and the word reads are the select-and-read run with two bytes, the second one high. -/

namespace Sys2Proof.Machine

/-! ### The value of a word -/

/-- The pattern is the second byte read above the first (R66, R67). -/
theorem lePattern_eq_append (b0 b1 : Byte) : lePattern b0 b1 = b1 ++ b0 := by
  rw [lePattern, BitVec.append_def, BitVec.shiftLeftZeroExtend_eq, BitVec.setWidth'_eq]

theorem le16s_eq_toInt_append (b0 b1 : Byte) : le16s b0 b1 = (b1 ++ b0).toInt :=
  congrArg BitVec.toInt (lePattern_eq_append b0 b1)

/-! ### The statements -/

/-- Settles O37: the frame with the two operands is the one transaction that the table plans, so either answer to it
ends the operation. -/
theorem writeRegisterSendsOneFrame : Obligations.WriteRegisterSendsOneFrame := by
  intro s us rest addr value
  have ran := sequencerRefinesEveryOperation (.writeRegister addr value) s
  refine ⟨decode_encode (.writeRegister addr value), ?_, ?_⟩
  · intro x0 y0 hears
    exact ⟨_, ran, (ScriptRun.start _ hears).closes rfl rfl⟩
  · intro sig hears
    exact ⟨_, ran, (ScriptRun.start _ hears).fails rfl⟩

/-- Settles O38: each of the four selects its register and reads two bytes, and makes the signed word of them. -/
theorem wordReadsSelectThenReadTwo : Obligations.WordReadsSelectThenReadTwo := by
  refine ⟨fun addr => decode_encode (.readRegisterWord addr), decode_encode .getX, decode_encode .getY,
    decode_encode .getZ, ?_⟩
  intro s us rest i addr which
  have plan : ∀ bus cached held, planOf bus cached held i = [.write bus (.one addr), .read bus .two] := by
    obtain rfl | ⟨rfl, rfl⟩ | ⟨rfl, rfl⟩ | ⟨rfl, rfl⟩ := which <;> exact fun _ _ _ => rfl
  have value : ∀ b0 b1, finalValue i b0 b1 = .int16 (le16s b0 b1) := by
    obtain rfl | ⟨rfl, -⟩ | ⟨rfl, -⟩ | ⟨rfl, -⟩ := which <;> exact fun _ _ => rfl
  refine ⟨fun x0 y0 b0 b1 hears => ?_, fun _ => exec_select_fails plan, fun _ _ _ => exec_read_fails plan⟩
  have ended := exec_select_read plan hears
  rwa [value, le16s_eq_toInt_append] at ended

end Sys2Proof.Machine
end

section
/-! PROOFS. The statement of the axis reads with the reference device of R82 on the bus (R190 to R192, R252): each is the
word read at its own literal base, and its second cell is the next one up. -/

namespace Sys2Proof.Machine

/-- Settles O46: an axis operation is the word read at `low`, and `high` is the cell after it, so the device answers with
the pair named. -/
theorem deviceAxesReadTheirOwnPairs : Obligations.DeviceAxesReadTheirOwnPairs := by
  intro s d i low high alone axis
  have ⟨body, next⟩ : exec i s = .next (readWordAndRespond low (s.start i)) ∧ high = low + 1 := by
    obtain ⟨rfl, rfl, rfl⟩ | ⟨rfl, rfl, rfl⟩ | ⟨rfl, rfl, rfl⟩ := axis <;> exact ⟨rfl, rfl⟩
  subst next
  exact ⟨_, body, readWordAndRespond_alone i low alone⟩

end Sys2Proof.Machine
end

section
/-! PROOFS. Where an operation ends, with every event counted (`Finish`, `exec_finish`), which `Ended` does not say:
after transactions answered `ok` the last one closes the operation, fails or waits, or a reset comes. The outcomes of
R210 and the first failure (R213 to R215) are read off from it. -/

namespace Sys2Proof.Machine

/-! ### Transactions answered `ok` -/

/-- The transport's `ok` to a transaction is an `ok` in its event. -/
theorem BusCall.answer_answeredOk (c : BusCall) (b0 b1 : Byte) :
    (Event.bus c (some (c.answer (.ok b0 b1)))).answeredOk = true := by
  obtain _ | ⟨_, _ | _⟩ := c <;> rfl

theorem answeredOk_concat {done : List Event} (h : ∀ e ∈ done, e.answeredOk = true) (c : BusCall) (b0 b1 : Byte) :
    ∀ e ∈ done ++ [.bus c (some (c.answer (.ok b0 b1)))], e.answeredOk = true :=
  List.forall_mem_append.mpr ⟨h, List.forall_mem_singleton.mpr (c.answer_answeredOk b0 b1)⟩

/-- No failure is among transactions answered `ok`. -/
theorem fail_not_mem_of_answeredOk {done : List Event} (h : ∀ e ∈ done, e.answeredOk = true) (c : BusCall)
    (sig : FailSig) : .bus c (some (.fail sig)) ∉ done := fun failed => by
  cases h _ failed

/-- `u` is `s` after transactions of one operation, `done`, each answered `ok`; the sequencer is at `q`, which counts
them and has another transaction to issue. -/
structure Reached (s u : State) (q : Seq) (done : List Event) : Prop where
  moved : OnBus s u
  seq : u.seq = some q
  legal : q.pos < fullCount q.instr
  pos : done.length = q.pos
  calls : u.calls = s.calls + done.length
  trace : u.trace = s.trace ++ done
  answered : ∀ e ∈ done, e.answeredOk = true

theorem Reached.start (i : Instr) (s : State) : Reached (s.start i) (s.start i) ⟨i, 0, 0x00#8⟩ [] :=
  ⟨.refl _, rfl, fullCount_pos i, rfl, rfl, (List.append_nil _).symm, nofun⟩

section
variable {s u w : State} {q : Seq} {done : List Event}

/-- The environment's turn at the next transaction answers nothing yet. -/
theorem Reached.envMoved (h : Reached s u q done) (hw : EnvMoved u w) : Reached s w q done :=
  ⟨h.moved.trans hw.onBus, hw.seq.trans h.seq, h.legal, h.pos, hw.calls.trans h.calls, hw.trace.trans h.trace,
    h.answered⟩

/-- One more transaction is answered `ok`, and the operation goes on. -/
theorem Reached.onward (h : Reached s u q done) {c : BusCall} {v : Byte × Byte} {t : State}
    (hcall : u.call c = .ok v t) (unclosed : q.closes v.1 v.2 = none) :
    Reached s t (q.onward (c.keeps v.1 q.held)) (done ++ [.bus c (some (c.answer (.ok v.1 v.2)))]) := by
  obtain ⟨w, hw, ht⟩ := State.call_ok hcall
  obtain ⟨-, seq, -, -, calls, trace, -⟩ := h.envMoved hw
  refine ⟨h.moved.trans (State.call_ok_onBus hcall), ?_, q.onward_legal h.legal unclosed, ?_, ?_, ?_,
    answeredOk_concat h.answered c v.1 v.2⟩
  · simp [ht, seq, Seq.onward]
  · simp [h.pos, Seq.onward]
  · simp [ht, calls, Nat.add_assoc]
  · simp [ht, trace]

end

/-! ### The last transaction -/

/-- `t` is one of the states that an operation, started in `s`, can come out in: `w` is the block when the turn at the
operation's last transaction `c` has been taken. -/
inductive Finish (s : State) : State → Prop
  /-- it is answered `ok`, which closes the operation -/
  | completes {w : State} {q : Seq} {done : List Event} (c : BusCall) {b0 b1 : Byte} {v : Value}
      (reached : Reached s w q done) (closes : q.closes b0 b1 = some v) :
      Finish s ((q.commits ((w.issue c (some (c.answer (.ok b0 b1)))).advance c b0)).respond (.ok v))
  /-- it fails -/
  | fails {w : State} {q : Seq} {done : List Event} (c : BusCall) (sig : FailSig) (reached : Reached s w q done) :
      Finish s ((w.issue c (some (.fail sig))).respond (q.failsWith w.lateFail sig))
  /-- it is not answered -/
  | waits {w : State} {q : Seq} {done : List Event} (c : BusCall) (reached : Reached s w q done) :
      Finish s (w.issue c none)
  /-- a reset comes before it is issued -/
  | cutOff {w : State} {q : Seq} {done : List Event} (addr : BusAddr) (range : Byte) (reached : Reached s w q done)
      (disturbed : ¬ s.Undisturbed) : Finish s (w.hostReset addr range)
  /-- a reset comes while it waits, or once it is answered -/
  | interrupted {w : State} {q : Seq} {done : List Event} (c : BusCall) (a : Option Answer) (addr : BusAddr)
      (range : Byte) (reached : Reached s w q done) (disturbed : ¬ s.Undisturbed) :
      Finish s ((w.issue c a).hostReset addr range)

theorem Reached.finish (n : Nat) {s u : State} {q : Seq} {done : List Event} (h : Reached s u q done)
    (fuel : q.pos + n = fullCount q.instr) : Finish s (runSequencer n u) := by
  induction n generalizing u q done with
  | zero => exact absurd fuel (Nat.ne_of_lt h.legal)
  | succ n ih =>
    obtain ⟨c, hc⟩ := (Seq.plan_isSome u.busByte u.cachedRange).mpr h.legal
    rw [runSequencer_at h.seq hc]
    cases hcall : u.call c with
    | gone t =>
      have disturbed : u.turn.resets = true → ¬ s.Undisturbed := fun resets calm =>
        State.disturbed_of_resets resets (h.moved.undisturbed calm)
      obtain ⟨w, hw, rfl | ⟨addr, range, resets, rfl⟩ | ⟨a, addr, range, resets, -, rfl⟩⟩ := State.call_gone hcall
      · exact .waits c (h.envMoved hw)
      · exact .cutOff addr range (h.envMoved hw) (disturbed resets)
      · exact .interrupted c a addr range (h.envMoved hw) (disturbed resets)
    | fail sig t =>
      obtain ⟨w, hw, rfl⟩ := State.call_fail hcall
      exact .fails c sig (h.envMoved hw)
    | ok v t =>
      cases hclose : q.closes v.1 v.2 with
      | some r =>
        obtain ⟨w, hw, rfl⟩ := State.call_ok hcall
        simpa only [hclose] using Finish.completes c (h.envMoved hw) hclose
      | none =>
        simp only [hclose]
        exact ih (h.onward hcall hclose) (by simp only [Seq.onward]; omega)

/-- Every operation finishes in one of these ways. -/
theorem exec_finish (i : Instr) (s : State) : ∃ t, exec i s = .next t ∧ Finish (s.start i) t :=
  ⟨_, sequencerRefinesEveryOperation i s, (Reached.start i s).finish _ (Nat.zero_add _)⟩

/-! ### The outcomes -/

section
variable {s w : State} {q : Seq} {done : List Event}

theorem Event.bus_of_answeredOk {e : Event} (h : e.answeredOk = true) : ∃ c a, e = .bus c (some a) := by
  unfold Event.answeredOk at h
  split at h
  · exact ⟨_, _, rfl⟩
  · cases h

theorem Reached.done_answered (h : Reached s w q done) : ∀ e ∈ done, ∃ c a, e = .bus c (some a) :=
  fun e he => Event.bus_of_answeredOk (h.answered e he)

/-- With the transaction that is due, every one is answered. -/
theorem Reached.concat_answered (h : Reached s w q done) (c : BusCall) (a : Answer) :
    ∀ e ∈ done ++ [.bus c (some a)], ∃ c a, e = .bus c (some a) :=
  List.forall_mem_append.mpr ⟨h.done_answered, List.forall_mem_singleton.mpr ⟨c, a, rfl⟩⟩

/-- The sequencer is at the operation that was started. -/
theorem Reached.instr {i : Instr} (h : Reached (s.start i) w q done) : q.instr = i := by
  simpa [h.seq] using h.moved.running

theorem Reached.length_lt {i : Instr} (h : Reached (s.start i) w q done) : done.length < fullCount i := by
  rw [h.pos, ← h.instr]
  exact h.legal

theorem Reached.concat_length_le {i : Instr} (h : Reached (s.start i) w q done) (e : Event) :
    (done ++ [e]).length ≤ fullCount i := by
  simpa using h.length_lt

end

theorem Seq.commits_calls (q : Seq) (s : State) : (q.commits s).calls = s.calls := by
  unfold Seq.commits
  split <;> rfl

/-- Settles O17: each way an operation can finish is one of the three outcomes. -/
theorem everyOperationGoesOn : Obligations.EveryOperationGoesOn := by
  intro i s
  obtain ⟨t, ht, finish⟩ := exec_finish i s
  cases finish with
  | @completes w q done c b0 b1 v reached closes =>
    refine ⟨_, done ++ [.bus c (some (c.answer (.ok b0 b1)))], ht, reached.concat_answered c _,
      reached.concat_length_le _, .inl ⟨rfl, ?_, .ok v, ?_⟩⟩
    · simp [q.commits_calls, reached.calls, Nat.add_assoc]
    · simp [q.commits_trace, reached.trace]
  | @fails w q done c sig reached =>
    refine ⟨_, done ++ [.bus c (some (.fail sig))], ht, reached.concat_answered c _,
      reached.concat_length_le _, .inl ⟨rfl, ?_, q.failsWith w.lateFail sig, ?_⟩⟩
    · simp [reached.calls, Nat.add_assoc]
    · simp [reached.trace]
  | @waits w q done c reached =>
    refine ⟨_, done, ht, reached.done_answered, reached.length_lt.le,
      .inr (.inl ⟨?_, ?_, reached.moved.cachedRange, reached.moved.kept.busAddr, ?_, c, ?_⟩)⟩
    · simp [reached.seq]
    · simp [reached.seq, reached.instr]
    · simp [reached.calls]
    · simp [reached.trace]
  | @cutOff w q done addr range reached disturbed =>
    refine ⟨_, done, ht, reached.done_answered, reached.length_lt.le,
      .inr (.inr ⟨disturbed, rfl, [], .inl rfl, ?_, ?_⟩)⟩
    · simp [reached.calls]
    · simp [reached.trace]
  | @interrupted w q done c a addr range reached disturbed =>
    cases a with
    | none =>
      refine ⟨_, done, ht, reached.done_answered, reached.length_lt.le,
        .inr (.inr ⟨disturbed, rfl, [.bus c none], .inr ⟨c, rfl⟩, ?_, ?_⟩)⟩
      · simp [reached.calls]
      · simp [reached.trace]
    | some a =>
      refine ⟨_, done ++ [.bus c (some a)], ht, reached.concat_answered c a,
        reached.concat_length_le _, .inr (.inr ⟨disturbed, rfl, [], .inl rfl, ?_, ?_⟩)⟩
      · simp [reached.calls, Nat.add_assoc]
      · simp [reached.trace]

/-! ### The first failure -/

/-- Before its third transaction, `initialise` reports a failure as "not this device" (R214). -/
theorem Seq.failsWith_identity {q : Seq} (hi : q.instr = .initialise) (early : q.pos < 2) (policy : InitLateFail)
    (sig : FailSig) : q.failsWith policy sig = .ok (.bool false) := by
  rw [Seq.failsWith, if_pos hi, if_pos early]

/-- From its third transaction on, `initialise` reports a failure as the strap says (R215). -/
theorem Seq.failsWith_late {q : Seq} (hi : q.instr = .initialise) (late : 2 ≤ q.pos) (policy : InitLateFail)
    (sig : FailSig) : q.failsWith policy sig = lateResponse policy sig := by
  rw [Seq.failsWith, if_pos hi, if_neg (Nat.not_lt.mpr late)]

/-- Settles O19: a failure can only be the last transaction, before a response or a reset. -/
theorem firstFailureEndsTheOperation : Obligations.FirstFailureEndsTheOperation := by
  intro i s t seen c sig ht trace failed
  obtain ⟨t', ht', finish⟩ := exec_finish i s
  obtain rfl : t' = t := by simpa [ht'] using ht
  cases finish with
  | @completes w q done c' b0 b1 v reached closes =>
    obtain rfl : done ++ [.bus c' (some (c'.answer (.ok b0 b1))), .response (.ok v)] = seen := by
      simpa [q.commits_trace, reached.trace] using trace
    have answered := answeredOk_concat reached.answered c' b0 b1
    exact absurd (by simpa using failed) (fail_not_mem_of_answeredOk answered c sig)
  | @fails w q done c' sig' reached =>
    obtain rfl : done ++ [.bus c' (some (.fail sig')), .response (q.failsWith w.lateFail sig')] = seen := by
      simpa [reached.trace] using trace
    obtain ⟨rfl, rfl⟩ : c = c' ∧ sig = sig' := by simpa [fail_not_mem_of_answeredOk reached.answered] using failed
    have lateFail : w.lateFail = s.lateFail := reached.moved.kept.lateFail
    refine ⟨rfl, done, _, rfl, reached.answered,
      .inr ⟨reached.moved.cachedRange, reached.moved.kept.busAddr, _, rfl, ?_⟩⟩
    rw [reached.pos, ← reached.instr, lateFail]
    refine ⟨fun hi => Seq.failsWith_of_ne hi _ _, fun hi early => Seq.failsWith_identity hi early _ _,
      fun hi late propagate => ?_, fun hi late report => ?_⟩
    · rw [Seq.failsWith_late hi late, propagate, lateResponse]
    · rw [Seq.failsWith_late hi late, report, lateResponse]
  | @waits w q done c' reached =>
    obtain rfl : done ++ [.bus c' none] = seen := by simpa [reached.trace] using trace
    simp [fail_not_mem_of_answeredOk reached.answered] at failed
  | @cutOff w q done addr range reached disturbed =>
    obtain rfl : done ++ [.reset addr range] = seen := by simpa [reached.trace] using trace
    simp [fail_not_mem_of_answeredOk reached.answered] at failed
  | @interrupted w q done c' a addr range reached disturbed =>
    obtain rfl : done ++ [.bus c' a, .reset addr range] = seen := by simpa [reached.trace] using trace
    obtain ⟨rfl, rfl⟩ : c = c' ∧ some (.fail sig) = a := by
      simpa [fail_not_mem_of_answeredOk reached.answered] using failed
    exact ⟨rfl, done, _, rfl, reached.answered, .inl ⟨rfl, disturbed⟩⟩

end Sys2Proof.Machine
end

section
/-! PROOFS. A transport that never answers (R228), the failures of `initialise` (R214, R215), reserved words (R217), and
what the sensor may hold after a failed write (R229). -/

namespace Sys2Proof.Machine

/-! ### A call that never answers -/

/-- Where an `ok` at `q` closes nothing: it is not the operation's last, nor an identity byte other than 0xE5. -/
theorem Seq.closes_eq_none {q : Seq} {b0 : Byte} (b1 : Byte) (notLast : q.pos + 1 < fullCount q.instr)
    (identified : q.instr = .initialise → q.pos = 1 → b0 = 0xE5#8) : q.closes b0 b1 = none := by
  have matched : ¬ (q.instr = .initialise ∧ q.pos = 1 ∧ b0 ≠ identityByte) := fun ⟨hi, hpos, wrong⟩ =>
    wrong (identified hi hpos)
  rw [Seq.closes, if_neg matched, if_neg notLast.ne]

/-- The script answers `ok` with the bytes `offers`, which close nothing: the sequencer comes to the transaction after
them. -/
theorem ScriptRun.answered {s t : State} {q : Seq} {us rest : List Turn} {bus : List Event}
    (offers : List (Byte × Byte)) (n : Nat)
    (h : ScriptRun s t q us rest (offers.map fun o => .ok o.1 o.2) bus) (ok : ∀ e ∈ bus, e.answeredOk = true)
    (short : q.pos + offers.length < fullCount q.instr)
    (identified : q.instr = .initialise → ∀ k o, offers[k]? = some o → q.pos + k = 1 → o.1 = 0xE5#8) :
    ∃ u held done, runSequencer (n + offers.length) t = runSequencer n u ∧
      ScriptRun s u ⟨q.instr, q.pos + offers.length, held⟩ us rest [] done ∧
      done.length = bus.length + offers.length ∧ ∀ e ∈ done, e.answeredOk = true := by
  induction offers generalizing t q bus with
  | nil => exact ⟨t, q.held, bus, rfl, h, rfl, ok⟩
  | cons o offers ih =>
    rw [List.length_cons] at short
    obtain ⟨c, plan⟩ := (Seq.plan_isSome t.busByte t.cachedRange).mpr (by omega : q.pos < fullCount q.instr)
    obtain ⟨u, hcall, run⟩ := h.call_ok c
    have unclosed : q.closes o.1 o.2 = none :=
      q.closes_eq_none o.2 (by omega) fun hi hpos => identified hi 0 o rfl hpos
    obtain ⟨w, held, done, hrun, reached, count, answered⟩ :=
      ih run (answeredOk_concat ok c o.1 o.2) (by simp only [Seq.onward]; omega) fun hi k o' ho' hk =>
        identified hi (k + 1) o' ho' (by simp only [Seq.onward] at hk; omega)
    refine ⟨w, held, done, ?_, ?_, ?_, answered⟩
    · rw [List.length_cons, ← Nat.add_assoc, runSequencer_at h.seq plan, hcall]
      simpa only [unclosed] using hrun
    · simpa [Seq.onward, Nat.add_assoc, Nat.add_comm 1] using reached
    · simpa [Nat.add_assoc, Nat.add_comm 1] using count

/-- A busy block takes no command. -/
theorem step_busy {s : State} {cw : CmdWord} {rest : List HostEvent} (busy : ¬ s.Idle)
    (presented : s.inbox = .command cw :: rest) : step s = .next s := by
  obtain ⟨q, hq⟩ := Option.ne_none_iff_exists'.mp busy
  simp only [step, hostStep, presented, presentCommand, hq]

/-- Settles O15: the transactions answered `ok` bring the sequencer to the silent one, where it stays. -/
theorem stalledCallStallsTheBlock : Obligations.StalledCallStallsTheBlock := by
  refine ⟨?_, fun t cw rest => step_busy⟩
  intro i s us offers v rest script verdicts silent short identified
  have same : us.length = offers.length := by simpa using congrArg List.length verdicts
  have hears : s.Hears us (offers.map fun o => .ok o.1 o.2) (v :: rest) :=
    ⟨by simpa [Function.comp_def] using verdicts, script⟩
  rw [same] at short ⊢
  obtain ⟨n, count⟩ := Nat.exists_eq_add_of_lt short
  obtain ⟨u, held, done, ran, reached, issued, answered⟩ :=
    (ScriptRun.start i hears).answered offers (n + 1) nofun (by simpa using short) fun hi k o ho hk =>
      identified hi o ((Nat.zero_add k).symm.trans hk ▸ ho)
  obtain ⟨kept, range, seq, calls, trace, taken, coming, -, ⟨noVerdicts, later⟩, -⟩ := reached
  obtain rfl : coming = [] := List.map_eq_nil_iff.mp noVerdicts
  obtain ⟨c, plan⟩ := (Seq.plan_isSome (q := ⟨i, 0 + offers.length, held⟩) u.busByte u.cachedRange).mpr
    (by simpa using short)
  refine ⟨u.takeTurn.issue c none, c, done, ?_, ⟨kept.busAddr, kept.lateFail, kept.inbox⟩, range, ?_, ?_, ?_, ?_, ?_,
    answered⟩
  · rw [sequencerRefinesEveryOperation, count, show offers.length + n + 1 = n + 1 + offers.length by omega, ran,
      runSequencer_at seq plan, State.call_scripted_never c later silent]
  · simp [later]
  · simpa [issued] using calls
  · simp [seq]
  · simp [trace]
  · simpa using issued

/-! ### The failures of `initialise` -/

/-- Settles O32: at its first two transactions `initialise` closes with `ok(false)` on a failure, and at the second on
any identity byte but 0xE5. -/
theorem initializeReportsNotThisDevice : Obligations.InitializeReportsNotThisDevice := by
  refine ⟨?_, ?_, ?_⟩
  · intro s us rest x0 y0 id y1 hears wrong
    refine ⟨_, sequencerRefinesEveryOperation .initialise s, ?_⟩
    refine (ScriptRun.start .initialise hears).onward rfl rfl fun _ selected => ?_
    exact selected.closes rfl (if_pos ⟨rfl, rfl, wrong⟩)
  · intro s us rest sig hears
    exact ⟨_, sequencerRefinesEveryOperation .initialise s, (ScriptRun.start .initialise hears).fails rfl⟩
  · intro s us rest x0 y0 sig hears
    refine ⟨_, sequencerRefinesEveryOperation .initialise s, ?_⟩
    exact (ScriptRun.start .initialise hears).onward rfl rfl fun _ selected => selected.fails rfl

/-- After an identity read that matched, `initialise` is at its third transaction. -/
theorem exec_initialise_identified {s : State} {us rest : List Turn} {x0 y0 y1 : Byte} {offers : List Offer}
    {seen : List Event} {r : Response} (hears : s.Hears us (.ok x0 y0 :: .ok 0xE5#8 y1 :: offers) rest)
    (goesOn : ∀ u, ScriptRun s u ⟨.initialise, 2, 0xE5#8⟩ us rest offers
      [s.select 0x00#8 (.ok []), s.read1 (.ok [0xE5#8])] → Result s (runSequencer 4 u) us rest seen r s.cachedRange) :
    ∃ t, exec .initialise s = .next t ∧ Result s t us rest seen r s.cachedRange := by
  refine ⟨_, sequencerRefinesEveryOperation .initialise s, ?_⟩
  refine (ScriptRun.start .initialise hears).onward rfl rfl fun _ selected => ?_
  exact selected.onward rfl rfl goesOn

/-- Settles O33: each answer takes the sequencer to the next transaction, and the one that fails ends the operation as
the strap says. -/
theorem initializeLateFailure : Obligations.InitializeLateFailure := by
  intro s us rest x0 y0 y1 sig r hr
  obtain rfl : r = lateResponse s.lateFail sig := by rw [hr]; rfl
  refine ⟨fun hears => ?_, fun x2 y2 hears => ?_, fun x2 y2 x3 y3 hears => ?_, fun x2 y2 x3 y3 old y4 hears => ?_⟩
  · exact exec_initialise_identified hears fun _ identified => identified.fails rfl
  · refine exec_initialise_identified hears fun _ identified => ?_
    exact identified.onward rfl rfl fun _ powered => powered.fails rfl
  · refine exec_initialise_identified hears fun _ identified => ?_
    refine identified.onward rfl rfl fun _ powered => ?_
    exact powered.onward rfl rfl fun _ selected => selected.fails rfl
  · refine exec_initialise_identified hears fun _ identified => ?_
    refine identified.onward rfl rfl fun _ powered => ?_
    refine powered.onward rfl rfl fun _ selected => ?_
    exact selected.onward rfl rfl fun _ readBack => readBack.fails rfl

/-! ### The command port -/

theorem decode_eq_none_of_no_row {cw : CmdWord} (h : ∀ row ∈ opcodeTable, ¬ row.spells cw) : decode cw = none := by
  refine Option.eq_none_iff_forall_ne_some.mpr fun i hi => ?_
  obtain ⟨row, hrow, spells, -⟩ := (decodeMatchesOpcodeTable.1 cw i).mp hi
  exact h row hrow spells

/-- Settles O13: a word that no row spells does not decode, so the block takes it and responds at once. -/
theorem reservedWordAnswersIllegal : Obligations.ReservedWordAnswersIllegal := by
  intro s cw rest idle presented reserved
  rw [step_command idle presented, runCommand_of_reserved (decode_eq_none_of_no_row reserved)]
  simp [State.respond, State.accept, State.observe, idle]

/-- Settles O16: whatever the host presents, the step waits, resets, answers `illegal` or runs an operation, and every
operation goes on. -/
theorem everyStepGoesOn : Obligations.EveryStepGoesOn := by
  intro s
  rcases presented : s.inbox with _ | ⟨cw | ⟨addr, range⟩, rest⟩
  · exact ⟨s, by simp only [step, hostStep, presented]⟩
  · by_cases idle : s.Idle
    · rw [step_command idle presented]
      cases hd : decode cw with
      | none => exact ⟨_, runCommand_of_reserved hd _⟩
      | some i => exact ⟨_, (runCommand_of_decode hd _).trans (sequencerRefinesEveryOperation i _)⟩
    · exact ⟨s, step_busy idle presented⟩
  · exact ⟨{ s with inbox := rest }.hostReset addr range, by simp only [step, hostStep, presented, presentReset]⟩

/-! ### A failed write -/

/-- A register write whose one transaction the script fails, with the acts of others in the same turn. -/
theorem exec_writeRegister_fails (s : State) (addr v : Byte) (sig : FailSig) (others : List OtherAct) :
    ∃ t, exec (.writeRegister addr v) { s with script := [⟨others, .answer (.fail sig)⟩] } = .next t ∧
      t.device = s.device.map (·.acts others) ∧
      SameSeen { s with seq := none, trace := s.trace ++ [s.frame addr v (.fail sig), .response (.fail sig)] } t := by
  obtain ⟨-, -, fails⟩ := writeRegisterSendsOneFrame { s with script := [⟨others, .answer (.fail sig)⟩] }
    [⟨others, .answer (.fail sig)⟩] [] addr v
  obtain ⟨t, ht, kept, range, idle, device, -, -, trace⟩ := fails sig ⟨rfl, rfl⟩
  exact ⟨t, ht, by simpa using device, kept.busAddr, range, idle, trace.trans (List.append_assoc _ _ _)⟩

/-- Settles O53: the same failing turn with no act of others, and with one that stores the byte. -/
theorem failedWriteMayHaveLanded : Obligations.FailedWriteMayHaveLanded := by
  intro s d addr v sig attached
  obtain ⟨t, ht, before, seen⟩ := exec_writeRegister_fails s addr v sig []
  obtain ⟨u, hu, landed, seen'⟩ := exec_writeRegister_fails s addr v sig [.poke addr v]
  rw [attached] at before landed
  refine ⟨t, u, ht, hu, before, landed, ?_, seen.trace⟩
  exact ⟨seen'.busAddr.trans seen.busAddr.symm, seen'.cachedRange.trans seen.cachedRange.symm,
    seen'.seq.trans seen.seq.symm, seen'.trace.trans seen.trace.symm⟩

end Sys2Proof.Machine
end

section
/-! PROOFS. Reset events, at the command port and in mid-operation (R240, R241), the number of transactions of each
operation (R254), and the hazard of another master's select (R246). -/

namespace Sys2Proof.Machine

/-! ### A reset in mid-operation -/

/-- A reset seen in an operation can only be the one event after its transactions. -/
theorem OnBus.eq_reset_of_mem {s u : State} {e : Event} {seen : List Event} {addr : BusAddr} {range : Byte}
    (moved : OnBus s u) (trace : u.trace ++ [e] = s.trace ++ seen) (reset : .reset addr range ∈ seen) :
    e = .reset addr range ∧ ∃ issued, seen = issued ++ [e] ∧ ∀ e ∈ issued, e.isBus = true := by
  obtain ⟨issued, hu, onBus⟩ := moved.trace
  obtain rfl : issued ++ [e] = seen := by simpa [hu] using trace
  have noReset : .reset addr range ∉ issued := fun h => nomatch onBus _ h
  have last : e = .reset addr range := by simpa [noReset, eq_comm] using reset
  exact ⟨last, issued, rfl, onBus⟩

/-- Settles O18: of the ways an operation comes out, only being abandoned shows a reset. -/
theorem midOperationResetAbandons : Obligations.MidOperationResetAbandons := by
  intro i s t seen addr range ht trace reset
  cases exec_ended ht with
  | waits moved =>
    obtain ⟨bus, hbus, onBus⟩ := moved.trace
    obtain rfl : bus = seen := List.append_cancel_left (hbus.symm.trans trace)
    cases onBus _ reset
  | @completes u q b0 b1 v moved instr closes =>
    rw [State.respond_trace, q.commits_trace] at trace
    cases (moved.eq_reset_of_mem trace reset).1
  | fails moved => cases (moved.eq_reset_of_mem trace reset).1
  | abandoned moved =>
    obtain ⟨⟨⟩, issued⟩ := moved.eq_reset_of_mem trace reset
    exact ⟨rfl, rfl, rfl, issued⟩

/-! ### The number of transactions -/

/-- An `ok` that closes the operation is that of an identity mismatch, or the last one of a full run. -/
theorem Seq.closes_eq_some {q : Seq} {b0 b1 : Byte} {v : Value} (h : q.closes b0 b1 = some v) :
    (q.instr = .initialise ∧ q.pos = 1 ∧ v = .bool false) ∨
      (q.pos + 1 = fullCount q.instr ∧ v = finalValue q.instr b0 b1) := by
  unfold Seq.closes at h
  split at h
  · next mismatch =>
    obtain ⟨hi, pos, -⟩ := mismatch
    cases h
    exact .inl ⟨hi, pos, rfl⟩
  · split at h
    · next last =>
      cases h
      exact .inr ⟨last, rfl⟩
    · cases h

/-- An operation that responds after transactions answered `ok` alone was closed by the last of them. -/
theorem exec_closes_of_answeredOk {i : Instr} {s t : State} {bus : List Event} {r : Response}
    (ht : exec i s = .next t) (trace : t.trace = s.trace ++ bus ++ [.response r])
    (answered : ∀ e ∈ bus, e.answeredOk = true) :
    ∃ (q : Seq) (b0 b1 : Byte) (v : Value),
      q.instr = i ∧ bus.length = q.pos + 1 ∧ q.closes b0 b1 = some v ∧ r = .ok v := by
  obtain ⟨t', ht', finish⟩ := exec_finish i s
  obtain rfl : t' = t := by simpa [ht'] using ht
  cases finish with
  | @completes w q done c b0 b1 v reached closes =>
    have ending : done ++ [.bus c (some (c.answer (.ok b0 b1)))] ++ [.response (.ok v)] = bus ++ [.response r] := by
      simpa [q.commits_trace, reached.trace] using trace
    obtain ⟨rfl, ⟨⟩⟩ := List.append_inj' ending rfl
    exact ⟨q, b0, b1, v, reached.instr, by simp [reached.pos], closes, rfl⟩
  | @fails w q done c sig reached =>
    have ending : done ++ [.bus c (some (.fail sig))] ++ [.response (q.failsWith w.lateFail sig)] =
        bus ++ [.response r] := by simpa [reached.trace] using trace
    obtain ⟨rfl, -⟩ := List.append_inj' ending rfl
    exact absurd (by simp) (fail_not_mem_of_answeredOk answered c sig)
  | waits => cases (List.append_inj' trace rfl).2
  | cutOff => cases (List.append_inj' trace rfl).2
  | interrupted => cases (List.append_inj' trace rfl).2

/-- Settles O23: the transaction that closes an operation is its last, or the identity read of `initialise`. -/
theorem transactionCounts : Obligations.TransactionCounts := by
  intro i s t bus r ht trace answered
  obtain ⟨q, b0, b1, v, rfl, count, closes, rfl⟩ := exec_closes_of_answeredOk ht trace answered
  obtain ⟨hi, pos, rfl⟩ | ⟨last, rfl⟩ := Seq.closes_eq_some closes
  · simp [count, hi, pos]
  · rw [count, last]
    cases q.instr <;> rfl

/-! ### The command port -/

/-- Settles O10: the host's reset is taken in every state. -/
theorem resetEventLoadsItsArguments : Obligations.ResetEventLoadsItsArguments := by
  refine ⟨fun s addr range rest presented => ?_, rfl⟩
  simp only [step, hostStep, presented, presentReset, State.hostReset]

/-- Settles O14: the step looks at the host's next event, and there is none. -/
theorem blockWaitsForTheHost : Obligations.BlockWaitsForTheHost := by
  intro s quiet
  simp only [step, hostStep, quiet]

/-! ### Another master's select -/

/-- The device at the block's bus address answers a transaction as others have left it (R73, R82). -/
theorem State.call_heard {s : State} {d : RefDevice} {c : BusCall} (behind : s.turn.verdict = .behind)
    (device : s.takeTurn.device = some d) (addressed : d.devAddr = s.busAddr) (hc : c.bus = s.busByte) :
    s.call c = .ok (d.read d.ptr, d.read (d.ptr + 1))
      (({ s.takeTurn with device := some (d.heard c) }.issue c
        (some (c.answer (.ok (d.read d.ptr) (d.read (d.ptr + 1)))))).advance c (d.read d.ptr)) := by
  have hears : d.hears c = true := by simp [RefDevice.hears, hc, State.busByte, addressed]
  simp only [State.call, behind, State.behind, device, RefDevice.offer, RefDevice.after, hears, if_true, State.settle]

/-- Settles O52: the device answers the read from where the other master's select has left its pointer. -/
theorem interleavedSelectCorruptsARead : Obligations.InterleavedSelectCorruptsARead := by
  intro s d addr other script device addressed
  have selects := State.call_heard (s := s.start (.readRegister addr)) (d := d)
    (c := .write s.busByte (.one addr)) (by simp [State.turn, script])
    (by simp [State.turn, script, device, RefDevice.acts]) addressed rfl
  refine ⟨_, rfl, ?_⟩
  rw [readAndRespond_eq, selectThenRead, State.start_busByte, selects, Access.orFail_ok,
    State.call_heard (d := { d with ptr := other }) ?behind ?device ?addressed rfl, Access.orFail_ok]
  case behind => simp [State.turn, script]
  case device => simp [State.turn, script, RefDevice.acts, RefDevice.act, RefDevice.heard]
  case addressed => exact addressed
  refine ⟨⟨rfl, rfl, rfl⟩, rfl, rfl, rfl, by simp [script], rfl, ?_⟩
  simp [State.select, State.read1, BusCall.answer, State.busByte, RefDevice.read]

end Sys2Proof.Machine
end
